-- ==== Sys2Proof/Word.lean ====
section
/-! DEFINITION. The byte of a cabinet link and the number of a port. -/
namespace Sys2Proof

/-- One byte of a frame. -/
abbrev Byte := BitVec 8

/-- A cabinet port, and the car slot that belongs to it: 0 to 7 (00 section 0.3). -/
abbrev Port := Fin 8

/-- The eight ports in ascending order. -/
def allPorts : List Port := [0, 1, 2, 3, 4, 5, 6, 7]

end Sys2Proof
end

