-- ==== Sys2Proof/Syntax.lean ====
section
/-! DEFINITION. The commands: one constructor for each row of the table of operations and events. -/
namespace Sys2Proof

/-- One step of the part. A request's own fields are in the frame at the head of the port's request
queue (R61, R176), so a request row's operand is the port it is granted to or answered on. -/
inductive Instr where
  /-- OPEN_RACE (R21) is granted to a port. -/
  | openRace (port : Port)
  /-- SET_RULES (R20) is granted to a port. -/
  | setRules (port : Port)
  /-- LOAD_COURSE (R5) is granted to a port. -/
  | loadCourse (port : Port)
  /-- ENTER (R47) is granted to a port. -/
  | enter (port : Port)
  /-- CAR_SETUP (R49) is granted to a port. -/
  | carSetup (port : Port)
  /-- CLOSE_ENTRIES (R24) is granted to a port. -/
  | closeEntries (port : Port)
  /-- READY (R50) is granted to a port. -/
  | ready (port : Port)
  /-- LEAVE (R51) is granted to a port. -/
  | leave (port : Port)
  /-- REPORT (R66) is granted to a port. -/
  | report (port : Port)
  /-- CLEAR_FLAGS (R89) is granted to a port. -/
  | clearFlags (port : Port)
  /-- SNAPSHOT (R151) is granted to a port. -/
  | snapshot (port : Port)
  /-- READ_LAPS (R111) is granted to a port. -/
  | readLaps (port : Port)
  /-- READ_RESULTS (R109) is granted to a port. -/
  | readResults (port : Port)
  /-- ABORT_VOTE (R123) is granted to a port. -/
  | abortVote (port : Port)
  /-- WITHDRAW_VOTE (R124) is granted to a port. -/
  | withdrawVote (port : Port)
  /-- IDENTIFY (R181) is answered at the head of a port's request queue. -/
  | identify (port : Port)
  /-- NOP (R181) is answered at the head of a port's request queue. -/
  | nop (port : Port)
  /-- SET_PUSH (R155) is answered at the head of a port's request queue. -/
  | setPush (port : Port)
  /-- CLEAR_ERRORS (R144) is answered at the head of a port's request queue. -/
  | clearErrors (port : Port)
  /-- An unknown frame is answered at the head of a port's request queue (R176). -/
  | unknownFrameAnswer (port : Port)
  /-- A frame with a correct check is received: its KIND byte and its payload (R174). -/
  | validFrame (port : Port) (kind : Byte) (payload : List Byte)
  /-- An ordinary candidate frame with an incorrect check is received (R171). -/
  | badCheckFrame (port : Port)
  /-- An ordinary candidate frame with a LEN above 240 is received (R172). -/
  | badLengthFrame (port : Port)
  /-- A resynchronising candidate fails (R173). -/
  | resynchronisingCandidateDiscard (port : Port)
  /-- The receive pair of a port has been undriven for 20 ms (R171). -/
  | lossOfSignal (port : Port)
  /-- RESET_N is asserted and released (R182). -/
  | hardwareReset
  /-- The entry window expires (R25). -/
  | entryWindowExpiry
  /-- The grid wait expires (R28). -/
  | gridWaitExpiry
  /-- The countdown expires (R30). -/
  | countdownExpiry
  /-- The closing window expires (R33). -/
  | closingWindowExpiry
  /-- The tick that brings the race clock to the race limit (R35). -/
  | raceLimit
  /-- The results hold expires (R38). -/
  | resultsHoldExpiry
  /-- The vote of a port expires (R125). -/
  | voteExpiry (port : Port)
  /-- The first stage of a port's silence timer expires (R132). -/
  | silenceFirstStageExpiry (port : Port)
  /-- The second stage of a port's silence timer expires (R134). -/
  | silenceSecondStageExpiry (port : Port)
  /-- A port's push timer expires (R157). -/
  | pushTimerExpiry (port : Port)
  /-- A port's transmitter is at a frame boundary (R178). -/
  | transmitTake (port : Port)
  /-- One tick of the Timebase, 1 ms (R31, R147). -/
  | tick
  deriving DecidableEq, Repr

end Sys2Proof
end

