-- ==== Sys2Proof/Decode.lean ====
section
/-! DEFINITION. The command that a word spells by the bits of the table. No row of the table gives bits. -/
namespace Sys2Proof

/-- No row of the table of operations and events has an encoding in bits, so no word spells a command. -/
def decodeTableWord (_nbits _w : Nat) : Option Instr := none

end Sys2Proof
end

