-- ==== Sys2Proof/Machine/Bank.lean ====
section
/-! DEFINITION. Eight like things, one for each port (00 section 0.3). -/
namespace Sys2Proof

/-- One value of type `α` for each of the ports 0 to 7. -/
structure Bank (α : Type) where
  p0 : α
  p1 : α
  p2 : α
  p3 : α
  p4 : α
  p5 : α
  p6 : α
  p7 : α
  deriving DecidableEq, Repr

/-- The value of one port. -/
def Bank.get {α : Type} (b : Bank α) : Port → α
  | 0 => b.p0
  | 1 => b.p1
  | 2 => b.p2
  | 3 => b.p3
  | 4 => b.p4
  | 5 => b.p5
  | 6 => b.p6
  | 7 => b.p7

/-- The bank with the value of one port replaced. -/
def Bank.set {α : Type} (b : Bank α) (p : Port) (x : α) : Bank α :=
  match p with
  | 0 => { b with p0 := x }
  | 1 => { b with p1 := x }
  | 2 => { b with p2 := x }
  | 3 => { b with p3 := x }
  | 4 => { b with p4 := x }
  | 5 => { b with p5 := x }
  | 6 => { b with p6 := x }
  | 7 => { b with p7 := x }

/-- The same value for every port. -/
def Bank.fill {α : Type} (x : α) : Bank α := ⟨x, x, x, x, x, x, x, x⟩

/-- Every port's value changed by a function of the port and its value. -/
def Bank.mapPorts {α β : Type} (f : Port → α → β) (b : Bank α) : Bank β :=
  ⟨f 0 b.p0, f 1 b.p1, f 2 b.p2, f 3 b.p3, f 4 b.p4, f 5 b.p5, f 6 b.p6, f 7 b.p7⟩

/-- Every port's value changed by one function. -/
def Bank.map {α β : Type} (f : α → β) (b : Bank α) : Bank β := b.mapPorts fun _ x => f x

/-- How many ports have a value that satisfies a test. -/
def Bank.count {α : Type} (f : α → Bool) (b : Bank α) : Nat := allPorts.countP fun p => f (b.get p)

end Sys2Proof
end

