-- ==== Sys2Proof/WellFormed.lean ====
section
/-! DEFINITION. Which commands can occur: a received frame carries at most 240 payload bytes (R172). -/
namespace Sys2Proof

/-- The longest payload a frame may carry (R172). -/
def maxPayload : Nat := 240

/-- A command that the link can bring about: a frame with a correct check has a LEN of at most 240. -/
def Instr.wellFormed : Instr → Bool
  | .validFrame _ _ payload => decide (payload.length ≤ maxPayload)
  | .openRace _ | .setRules _ | .loadCourse _ | .enter _ | .carSetup _ | .closeEntries _ | .ready _
  | .leave _ | .report _ | .clearFlags _ | .snapshot _ | .readLaps _ | .readResults _ | .abortVote _
  | .withdrawVote _ | .identify _ | .nop _ | .setPush _ | .clearErrors _ | .unknownFrameAnswer _
  | .badCheckFrame _ | .badLengthFrame _ | .resynchronisingCandidateDiscard _ | .lossOfSignal _
  | .hardwareReset | .entryWindowExpiry | .gridWaitExpiry | .countdownExpiry | .closingWindowExpiry
  | .raceLimit | .resultsHoldExpiry | .voteExpiry _ | .silenceFirstStageExpiry _
  | .silenceSecondStageExpiry _ | .pushTimerExpiry _ | .transmitTake _ | .tick => true

end Sys2Proof
end

