-- ==== Sys2Proof/Machine/Parameters.lean ====
section
/-! DEFINITION. The fixed lengths and capacities of the part, each from the rule that states it. -/
namespace Sys2Proof.Machine

/-- First stage of the silence timer, in ms (R131, R132). -/
def firstStageLength : Nat := 250

/-- Second stage of the silence timer, in ms (R132, R134). -/
def secondStageLength : Nat := 2750

/-- Life of a vote after its cast time, in ms (R125). -/
def voteLife : Nat := 10000

/-- Entries of a request queue (R175). -/
def requestCapacity : Nat := 4

/-- Entries of a response queue (section 10.4, R176). -/
def responseCapacity : Nat := 6

/-- Entries of a notice queue (R161). -/
def noticeCapacity : Nat := 16

/-- Consecutive bad-check frames that take the link DOWN (R171). -/
def badCheckLimit : Nat := 8

/-- Largest value of the reverse run (R73). -/
def reverseRunLimit : Nat := 0xFFFFFFFF

/-- Largest age of a pose that is present (R150). -/
def poseAgeLimit : Nat := 65534

/-- Age shown for an absent pose (R150). -/
def poseAgeAbsent : Nat := 65535

/-- Most lap times that one READ_LAPS returns (R111). -/
def lapsPerRead : Nat := 50

/-- Rate limit of a car at entry, in tu per ms (Table 3.4). -/
def entryRateLimit : Nat := 200

/-- The byte that begins a frame (section 10.3). -/
def syncByte : Byte := 0xC3

/-- The range of setting `i` in the order of Table 2.3. -/
def settingRange : Nat → Nat × Nat
  | 0 => (1, 99)
  | 1 => (1000, 9000)
  | 2 => (5000, 120000)
  | 3 => (5000, 60000)
  | 4 => (0, 60000)
  | 5 => (60000, 3600000)
  | 6 => (0, 30000)
  | 7 => (100, 1000000)
  | _ => (10000, 300000)

/-- The default of setting `i` in the order of Table 2.3. -/
def settingDefault : Nat → Nat
  | 0 => 3
  | 1 => 3000
  | 2 => 30000
  | 3 => 20000
  | 4 => 20000
  | 5 => 600000
  | 6 => 5000
  | 7 => 2000
  | _ => 60000

end Sys2Proof.Machine
end

