-- ==== Sys2Proof/Machine/State.lean ====
section
/-! DEFINITION. Everything the spec gives the part, as plain data, and its values after hardware reset. -/
namespace Sys2Proof.Machine

/-! ### Names of the spec -/

/-- Phases of a race (Table 2.4). -/
inductive Phase where
  | idle | forming | grid | countdown | green | finishing | results
  deriving DecidableEq, Repr

/-- Reasons carried by notices, results and records (Table 11.3). -/
inductive Reason where
  | none | noCourse | noOpener | noStarters | allFinished | allRetired | closed | limit | aborted
  | released | holdExpired | left | silent | readyMissed | courseChanged | fenced
  deriving DecidableEq, Repr

/-- Result codes of responses (Table 11.3). -/
inductive ResultCode where
  | ok | busy | noRace | raceExists | notOpener | notEntered | alreadyEntered | wrongPhase | locked
  | range | notReady | courseMismatch | outOfRace | fenced | unknownKind
  deriving DecidableEq, Repr

/-- Car states as they are named on the link (Table 3.2). -/
inductive CarState where
  | empty | entered | ready | racing | coasting | finished | stopped | retired
  deriving DecidableEq, Repr

/-- Standing of a car that is in the race, with what the state alone carries (Table 3.1): the finish
time of a FINISHED car, the retire reason and retire time of a RETIRED one. -/
inductive Standing where
  | entered | ready | racing | coasting
  | finished (time : Nat)
  | stopped
  | retired (reason : Reason) (time : Nat)
  deriving DecidableEq, Repr

/-- Presence of a port (Table 7.1). -/
inductive Presence where
  | absent | present | late | lost
  deriving DecidableEq, Repr

/-- State of a link (R171). -/
inductive Link where
  | down | up
  deriving DecidableEq, Repr

/-- Kinds of major error (Table 7.5). -/
inductive ErrorKind where
  | badCheck | badLength | unknownKind | badField
  deriving DecidableEq, Repr

/-- Kinds of gate (Table 1.2). -/
inductive GateKind where
  | line | sector | plain
  deriving DecidableEq, Repr

/-- Outcomes of a LEAVE (R51). -/
inductive LeaveOutcome where
  | withdrawn | retired | released
  deriving DecidableEq, Repr

/-- Indications of an ENTRY notice (R167). -/
inductive EntryIndication where
  | entered | withdrawn | setupChanged
  deriving DecidableEq, Repr

/-- The nineteen requests, in the order of their kind codes (Table 11.2). -/
inductive RequestKind where
  | openRace | setRules | loadCourse | enter | carSetup | closeEntries | ready | leave | report
  | clearFlags | snapshot | readLaps | readResults | abortVote | withdrawVote
  | identify | nop | setPush | clearErrors
  deriving DecidableEq, Repr

/-! ### The race record -/

/-- A timer that counts ticks down: stopped, or the ticks it has left. With no tick left its expiry is
due (R17). -/
abbrev Timer := Option Nat

/-- The nine race settings (Table 2.3). -/
structure Settings where
  laps : Nat
  countdownLength : Nat
  entryWindow : Nat
  gridWait : Nat
  closingWindow : Nat
  raceLimit : Nat
  jumpStartPenalty : Nat
  wrongWayThreshold : Nat
  resultsHold : Nat
  deriving DecidableEq, Repr

/-- The race record of the Race Control Unit (Table 2.1). -/
structure RaceRecord where
  phase : Phase
  number : Nat
  opener : Option Port
  settings : Settings
  /-- Stopped, or the ticks passed since the OPEN_RACE from which the window is measured (R20). -/
  entryWindow : Option Nat
  gridWait : Timer
  countdown : Timer
  closingWindow : Timer
  resultsHold : Timer
  holdSlot : Option Nat
  /-- For each port, the cast time of the vote it holds (Table 6.2). -/
  votes : Bank (Option Nat)
  /-- For each port, whether it is in the release set (R37). -/
  releaseSet : Bank Bool
  resultsReason : Option Reason
  deriving DecidableEq, Repr

/-! ### The course record -/

/-- One entry of the gate list (section 1.1.1). -/
structure GateEntry where
  distance : Nat
  kind : GateKind
  deriving DecidableEq, Repr

/-- A LOADED course record (Table 1.1); EMPTY is its absence. -/
structure Course where
  lapLength : Nat
  gates : List GateEntry
  checkValue : BitVec 32
  deriving DecidableEq, Repr

/-- A gate of the race, as its lap and its gate index (R8). -/
structure Gate where
  lap : Nat
  index : Nat
  deriving DecidableEq, Repr

/-! ### The car table -/

/-- The status flags of a car (Table 4.6). -/
structure StatusFlags where
  reversing : Bool
  rateLimited : Bool
  atFloor : Bool
  wrongWay : Bool
  deriving DecidableEq, Repr

/-- The sticky flags of a car (Table 4.6). -/
structure StickyFlags where
  wrongWaySeen : Bool
  rateSeen : Bool
  floorSeen : Bool
  jumpStart : Bool
  deriving DecidableEq, Repr

/-- The three characters of a tag, as ASCII codes (Table 3.5). -/
structure Tag where
  first : Byte
  second : Byte
  third : Byte
  deriving DecidableEq, Repr

/-- A stored pose: its twelve bytes and its arrival tick (Table 8.1). -/
structure Pose where
  bytes : List Byte
  arrival : Nat
  deriving DecidableEq, Repr

/-- A car record that is not EMPTY (Table 3.1). -/
structure Car where
  standing : Standing
  entryPosition : Nat
  carClass : Nat
  tag : Tag
  rateLimit : Nat
  distance : Nat
  floorGate : Gate
  nextGate : Option Gate
  lastReport : Nat
  distanceChange : Nat
  reverseRun : Nat
  status : StatusFlags
  sticky : StickyFlags
  penalty : Nat
  lastLine : Nat
  laps : List Nat
  pose : Option Pose
  deriving DecidableEq, Repr

/-- An entry of the finish list (R103). -/
structure FinishEntry where
  slot : Port
  time : Nat
  deriving DecidableEq, Repr

/-- An entry of the results table (Table 5.5). -/
structure ResultEntry where
  position : Nat
  slot : Port
  state : CarState
  lapsCompleted : Nat
  distance : Nat
  finishTime : Option Nat
  penalty : Nat
  totalTime : Option Nat
  bestLap : Option Nat
  retireReason : Option Reason
  retireTime : Option Nat
  deriving DecidableEq, Repr

/-- The results table (R105). -/
structure ResultsTable where
  reason : Reason
  entries : List ResultEntry
  deriving DecidableEq, Repr

/-! ### What a port sends -/

/-- A car entry of a snapshot (Table 8.3). -/
structure SnapshotCar where
  slot : Port
  state : CarState
  position : Nat
  currentLap : Nat
  distance : Nat
  status : StatusFlags
  sticky : StickyFlags
  carClass : Nat
  tag : Tag
  poseAge : Nat
  pose : List Byte
  deriving DecidableEq, Repr

/-- A snapshot (Table 8.2 and Table 8.3). -/
structure Snapshot where
  raceNumber : Nat
  phase : Phase
  held : Bool
  resultsReason : Option Reason
  time : Nat
  cars : List SnapshotCar
  deriving DecidableEq, Repr

/-- The first field of a PHASE notice, with the reason it brings (R166). -/
inductive PhaseReport where
  | changed (phase : Phase) (reason : Reason)
  | held
  | resumed
  | opener (port : Port)
  deriving DecidableEq, Repr

/-- The notices with their content (Table 9.1). -/
inductive Notice where
  | phase (report : PhaseReport) (raceNumber : Nat)
  | entry (slot : Port) (indication : EntryIndication) (reason : Reason) (position : Nat)
  | carState (slot : Port) (state : CarState) (reason : Reason)
  | gate (gate : Gate) (time : Nat) (lapTime : Option Nat)
  | position (position : Nat)
  | leader (slot : Port)
  | wrongWay (isSet : Bool) (reverseRun : Nat)
  | flag (penalty : Nat)
  | finish (slot : Port) (index : Nat) (time : Nat)
  | vote (votes : Nat) (eligible : Nat)
  | error (kind : ErrorKind)
  | overflow
  deriving DecidableEq, Repr

/-- The content of a REPORT_ACK (Table 4.5). -/
structure ReportAck where
  state : CarState
  currentLap : Nat
  position : Nat
  status : StatusFlags
  sticky : StickyFlags
  penalty : Nat
  distance : Nat
  distanceChange : Nat
  time : Nat
  deriving DecidableEq, Repr

/-- A HELD error record (Table 7.6); EMPTY is its absence. -/
structure ErrorRecord where
  firstKind : ErrorKind
  requestKind : Option Byte
  captureTime : Nat
  multiple : Bool
  deriving DecidableEq, Repr

/-- The responses with their content (R177, Table 11.6). `bare` is the result code alone: a refusal, a
BUSY answer, or the OK of NOP. -/
inductive Response where
  | bare (request : RequestKind) (code : ResultCode)
  | unknownFrame (kind : Byte) (code : ResultCode)
  | openRace (raceNumber : Nat)
  | setRules (settings : Settings)
  | loadCourse (checkValue : BitVec 32)
  | enter (raceNumber : Nat) (position : Nat)
  | carSetup (carClass : Nat) (tag : Tag) (rateLimit : Nat)
  | closeEntries (cars : Nat)
  | ready (readyCars : Nat) (cars : Nat)
  | leave (outcome : LeaveOutcome)
  | report (ack : ReportAck)
  | clearFlags (sticky : StickyFlags)
  | snapshot (content : Snapshot)
  | readLaps (slot : Port) (total : Nat) (first : Nat) (times : List Nat)
  | readResults (table : ResultsTable)
  | abortVote (votes : Nat) (eligible : Nat) (phase : Phase)
  | withdrawVote (votes : Nat) (eligible : Nat)
  | identify (port : Port) (raceNumber : Nat) (phase : Phase) (car : CarState) (presence : Presence)
      (recordHeld : Bool)
  | setPush (interval : Nat)
  | clearErrors (record : Option ErrorRecord) (wasFenced : Bool)
  deriving DecidableEq, Repr

/-- A frame in either direction, without its SYNC, LEN and CHECK (Table 11.1). -/
structure Frame where
  kind : Byte
  payload : List Byte
  deriving DecidableEq, Repr

/-! ### A cabinet port and its supervisor -/

/-- A request as it waits in a request queue (R175, R148). -/
structure Request where
  kind : RequestKind
  payload : List Byte
  arrival : Nat
  deriving DecidableEq, Repr

/-- An entry of a request queue: a request, or an unknown frame, with its arrival tick (section 10.4). -/
inductive Queued where
  | request (request : Request)
  | unknown (kind : Byte) (arrival : Nat)
  deriving DecidableEq, Repr

/-- The receiver of a port (R172, R173): the bytes from the first one still to be searched, and how many
of them already belong to a discarded candidate. -/
structure Receiver where
  bytes : List Byte
  discarded : Nat
  deriving DecidableEq, Repr

/-- The silence timer with the ticks its stage has left (Table 7.1). -/
inductive SilenceTimer where
  | stopped
  | first (remaining : Nat)
  | second (remaining : Nat)
  deriving DecidableEq, Repr

/-- One cabinet port (10, Table 8.6, Table 9.3) and its port supervisor (07). -/
structure PortState where
  link : Link
  badChecks : Nat
  receiver : Receiver
  requestQueue : List Queued
  responseQueue : List Response
  noticeQueue : List Notice
  overflow : Bool
  pushInterval : Nat
  pushTimer : Timer
  pushSlot : Option Snapshot
  /-- The frame on the transmit pair (R178). -/
  sending : Option Frame
  presence : Presence
  silence : SilenceTimer
  errorRecord : Option ErrorRecord
  fenced : Bool
  deriving DecidableEq, Repr

/-- The whole part, and the commands that wait. -/
structure State where
  /-- Commands waiting, the first at the front. -/
  pending : List Instr
  tickCount : Nat
  raceClock : Nat
  /-- The port granted last (R61). -/
  raaPointer : Port
  race : RaceRecord
  course : Option Course
  /-- The car table; an EMPTY record is `none` (R41). -/
  cars : Bank (Option Car)
  entryList : List Port
  activeGroup : List Port
  retiredGroup : List Port
  finishList : List FinishEntry
  resultsTable : Option ResultsTable
  ports : Bank PortState
  deriving DecidableEq, Repr

/-- The part has no condition in which it stops, so no command faults: the type has no case. -/
inductive Fault where
  deriving DecidableEq, Repr

/-- Reasons a command could be turned away. No command of this model is. -/
inductive Refusal where
  /-- For a command without a meaning: raised by no command of this model. Raising it would be safe. -/
  | notModelled (mnemonic : String)
  deriving DecidableEq, Repr

/-! ### Hardware reset (R182) -/

/-- The defaults of Table 2.3. -/
def Settings.default : Settings :=
  { laps := settingDefault 0, countdownLength := settingDefault 1, entryWindow := settingDefault 2,
    gridWait := settingDefault 3, closingWindow := settingDefault 4, raceLimit := settingDefault 5,
    jumpStartPenalty := settingDefault 6, wrongWayThreshold := settingDefault 7,
    resultsHold := settingDefault 8 }

/-- The race record at hardware reset (R15). -/
def RaceRecord.reset : RaceRecord :=
  { phase := .idle, number := 0, opener := none, settings := .default, entryWindow := none,
    gridWait := none, countdown := none, closingWindow := none, resultsHold := none, holdSlot := none,
    votes := .fill none, releaseSet := .fill false, resultsReason := none }

/-- A cabinet port and its supervisor at hardware reset (R182, R146). -/
def PortState.reset : PortState :=
  { link := .down, badChecks := 0, receiver := ⟨[], 0⟩, requestQueue := [], responseQueue := [],
    noticeQueue := [], overflow := false, pushInterval := 0, pushTimer := none, pushSlot := none,
    sending := none, presence := .absent, silence := .stopped, errorRecord := none, fenced := false }

/-- The part right after hardware reset (R182), with no command waiting. -/
def State.reset : State :=
  { pending := [], tickCount := 0, raceClock := 0, raaPointer := 7, race := .reset, course := none,
    cars := .fill none, entryList := [], activeGroup := [], retiredGroup := [], finishList := [],
    resultsTable := none, ports := .fill .reset }

end Sys2Proof.Machine
end

