-- ==== Sys2Proof/Machine/Operands.lean ====
section
/-! DEFINITION. The fields of request payloads (Table 11.5): reading them, the payload lengths allowed
for each kind (R184), the kind codes (Table 11.2), the reserved bytes (R185) and the ranges. -/
namespace Sys2Proof.Machine

/-! ### Fields (R183) -/

/-- The byte at an offset of a payload. -/
def byteAt (payload : List Byte) (offset : Nat) : Nat := (payload.getD offset 0).toNat

/-- A two-byte field, least significant byte first. -/
def halfAt (payload : List Byte) (offset : Nat) : Nat :=
  byteAt payload offset + 256 * byteAt payload (offset + 1)

/-- A four-byte field, least significant byte first. -/
def wordAt (payload : List Byte) (offset : Nat) : Nat :=
  halfAt payload offset + 65536 * halfAt payload (offset + 2)

/-- A four-byte field in two's complement (the delta of REPORT). -/
def signedAt (payload : List Byte) (offset : Nat) : Int :=
  if wordAt payload offset < 2147483648 then (wordAt payload offset : Int)
  else (wordAt payload offset : Int) - 4294967296

/-! ### Kinds -/

/-- The kind code of a request (Table 11.2). -/
def RequestKind.code : RequestKind → Byte
  | .openRace => 0x01
  | .setRules => 0x02
  | .loadCourse => 0x03
  | .enter => 0x04
  | .carSetup => 0x05
  | .closeEntries => 0x06
  | .ready => 0x07
  | .leave => 0x08
  | .report => 0x09
  | .clearFlags => 0x0A
  | .snapshot => 0x0B
  | .readLaps => 0x0C
  | .readResults => 0x0D
  | .abortVote => 0x0E
  | .withdrawVote => 0x0F
  | .identify => 0x10
  | .nop => 0x11
  | .setPush => 0x12
  | .clearErrors => 0x13

/-- Every request kind. -/
def RequestKind.all : List RequestKind :=
  [.openRace, .setRules, .loadCourse, .enter, .carSetup, .closeEntries, .ready, .leave, .report,
   .clearFlags, .snapshot, .readLaps, .readResults, .abortVote, .withdrawVote, .identify, .nop,
   .setPush, .clearErrors]

/-- The request kind that a KIND byte is, if it is one (R174). -/
def RequestKind.ofCode (kind : Byte) : Option RequestKind :=
  RequestKind.all.find? fun k => k.code = kind

/-- Whether a payload length is allowed for a request kind (R184, Table 11.5). -/
def RequestKind.lengthAllowed (k : RequestKind) (payload : List Byte) : Bool :=
  match k with
  | .openRace | .closeEntries | .ready | .leave | .snapshot | .readResults | .abortVote
  | .withdrawVote | .identify | .nop | .clearErrors => payload.length = 0
  | .setRules => payload.length = 38
  | .loadCourse => 5 ≤ payload.length ∧ payload.length = 5 + 5 * byteAt payload 4
  | .enter => payload.length = 4
  | .carSetup => payload.length = 8
  | .report => payload.length = 4 ∨ payload.length = 16
  | .clearFlags => payload.length = 1
  | .readLaps => payload.length = 2
  | .setPush => payload.length = 4

/-- Whether a reserved byte of the request is not zero (R185): offset 5 of CAR_SETUP, offsets 2 and 3 of
SET_PUSH. -/
def RequestKind.reservedNonzero (k : RequestKind) (payload : List Byte) : Bool :=
  match k with
  | .carSetup => byteAt payload 5 ≠ 0
  | .setPush => byteAt payload 2 ≠ 0 ∨ byteAt payload 3 ≠ 0
  | .openRace | .setRules | .loadCourse | .enter | .closeEntries | .ready | .leave | .report
  | .clearFlags | .snapshot | .readLaps | .readResults | .abortVote | .withdrawVote | .identify
  | .nop | .clearErrors => false

/-! ### SET_RULES -/

/-- The apply mask of SET_RULES. -/
def rulesMask (payload : List Byte) : Nat := halfAt payload 0

/-- The value that SET_RULES carries for setting `i`. -/
def rulesValue (payload : List Byte) (i : Nat) : Nat := wordAt payload (2 + 4 * i)

/-- Every selected setting carries a value in its range (R19, check 5). -/
def rulesInRange (payload : List Byte) : Bool :=
  (List.range 9).all fun i =>
    !(rulesMask payload).testBit i ||
      decide ((settingRange i).1 ≤ rulesValue payload i ∧ rulesValue payload i ≤ (settingRange i).2)

/-- The settings with those that the mask selects taken from the request (R20). -/
def Settings.apply (payload : List Byte) (s : Settings) : Settings :=
  let pick (i old : Nat) := if (rulesMask payload).testBit i then rulesValue payload i else old
  { laps := pick 0 s.laps
    countdownLength := pick 1 s.countdownLength
    entryWindow := pick 2 s.entryWindow
    gridWait := pick 3 s.gridWait
    closingWindow := pick 4 s.closingWindow
    raceLimit := pick 5 s.raceLimit
    jumpStartPenalty := pick 6 s.jumpStartPenalty
    wrongWayThreshold := pick 7 s.wrongWayThreshold
    resultsHold := pick 8 s.resultsHold }

/-! ### CAR_SETUP -/

/-- The apply mask of CAR_SETUP: class, tag and rate limit at bits 0 to 2. -/
def setupMask (payload : List Byte) : Nat := byteAt payload 0

/-- The class that CAR_SETUP carries. -/
def setupClass (payload : List Byte) : Nat := byteAt payload 1

/-- The tag that CAR_SETUP carries. -/
def setupTag (payload : List Byte) : Tag :=
  ⟨payload.getD 2 0, payload.getD 3 0, payload.getD 4 0⟩

/-- The rate limit that CAR_SETUP carries. -/
def setupRate (payload : List Byte) : Nat := halfAt payload 6

/-- A tag character in range: A to Z, 0 to 9 or space (R48). -/
def tagCharacter (b : Byte) : Bool :=
  (0x41 ≤ b.toNat ∧ b.toNat ≤ 0x5A) ∨ (0x30 ≤ b.toNat ∧ b.toNat ≤ 0x39) ∨ b.toNat = 0x20

/-- A tag in range: all three characters are (R48). -/
def Tag.inRange (t : Tag) : Bool := tagCharacter t.first && tagCharacter t.second && tagCharacter t.third

/-- Every selected field carries a value in its range (R48, check 6). -/
def setupInRange (payload : List Byte) : Bool :=
  (!(setupMask payload).testBit 0 || decide (setupClass payload ≤ 15)) &&
  (!(setupMask payload).testBit 1 || (setupTag payload).inRange) &&
  (!(setupMask payload).testBit 2 || decide (1 ≤ setupRate payload))

/-- The mask of CAR_SETUP selects no field. -/
def setupMaskEmpty (payload : List Byte) : Bool :=
  !(setupMask payload).testBit 0 && !(setupMask payload).testBit 1 && !(setupMask payload).testBit 2

/-- The car with the selected fields taken from the request (R49). -/
def Car.setup (payload : List Byte) (c : Car) : Car :=
  { c with
    carClass := if (setupMask payload).testBit 0 then setupClass payload else c.carClass
    tag := if (setupMask payload).testBit 1 then setupTag payload else c.tag
    rateLimit := if (setupMask payload).testBit 2 then setupRate payload else c.rateLimit }

/-! ### The other requests -/

/-- The check value that ENTER carries. -/
def enterCheck (payload : List Byte) : BitVec 32 := BitVec.ofNat 32 (wordAt payload 0)

/-- The delta that REPORT carries (R65). -/
def reportDelta (payload : List Byte) : Int := signedAt payload 0

/-- The pose that REPORT carries: present when the payload has 16 bytes (R184). -/
def reportPose (payload : List Byte) : Option (List Byte) :=
  if payload.length = 16 then some (payload.drop 4) else none

/-- The interval that SET_PUSH carries. -/
def pushIntervalOf (payload : List Byte) : Nat := halfAt payload 0

/-- An interval that SET_PUSH accepts (R155). -/
def pushIntervalInRange (interval : Nat) : Bool := interval = 0 ∨ (16 ≤ interval ∧ interval ≤ 1000)

end Sys2Proof.Machine
end

