-- ==== Sys2Proof/Machine/Course.lean ====
section
/-! DEFINITION. The Course Table (01): reading and checking a course definition, the check value, course
positions, the finish distance and the gate chain. -/
namespace Sys2Proof.Machine

/-! ### The check value (R11) -/

/-- One step of the 32-bit register of R11. -/
def courseCheckStep (r : BitVec 32) : BitVec 32 :=
  if r.getLsbD 0 then (r >>> 1) ^^^ 0xEDB88320#32 else r >>> 1

/-- One byte taken into the register: combined into its eight lowest-order bits, then eight steps. -/
def courseCheckByte (r : BitVec 32) (b : Byte) : BitVec 32 :=
  Nat.repeat courseCheckStep 8 (r ^^^ b.setWidth 32)

/-- The check value of a byte string (R11). -/
def courseCheck (bytes : List Byte) : BitVec 32 := ~~~ bytes.foldl courseCheckByte 0xFFFFFFFF#32

/-! ### Course definitions (R3) -/

/-- The gate kind that a kind code is (Table 1.2). -/
def GateKind.ofCode (code : Byte) : Option GateKind :=
  if code = 0x01 then some .line
  else if code = 0x02 then some .sector
  else if code = 0x03 then some .plain
  else none

/-- The gate entries of a payload, five bytes each; `none` when a kind code is not one of the three. -/
def gateEntries : List Byte → Option (List GateEntry)
  | b0 :: b1 :: b2 :: b3 :: k :: rest =>
    match GateKind.ofCode k, gateEntries rest with
    | some kind, some gates => some (⟨wordAt [b0, b1, b2, b3] 0, kind⟩ :: gates)
    | _, _ => none
  | _ => some []

/-- Each distance is strictly greater than the one before it. -/
def increasing : List Nat → Bool
  | a :: b :: rest => decide (a < b) && increasing (b :: rest)
  | _ => true

/-- The conditions of R3 on a lap length and a gate list whose kind codes are the three of Table 1.2. -/
def validDefinition (lapLength : Nat) (gates : List GateEntry) : Bool :=
  decide (1000 ≤ lapLength ∧ lapLength ≤ 4000000) &&
  decide (1 ≤ gates.length ∧ gates.length ≤ 32) &&
  gates.head? == some ⟨0, .line⟩ &&
  gates.tail.all (fun g => g.kind ≠ .line) &&
  gates.all (fun g => g.distance < lapLength) &&
  increasing (gates.map GateEntry.distance)

/-- The course that a LOAD_COURSE payload defines, if its definition is valid (R3), with the check value
computed over the payload (R5). -/
def courseOf (payload : List Byte) : Option Course :=
  match gateEntries (payload.drop 5) with
  | none => none
  | some gates =>
    if validDefinition (wordAt payload 0) gates then
      some ⟨wordAt payload 0, gates, courseCheck payload⟩
    else none

/-! ### Course positions (R8 to R10) -/

/-- Distance of a gate entry from the line, by its index. -/
def Course.gateDistance (c : Course) (index : Nat) : Nat :=
  match c.gates[index]? with
  | some g => g.distance
  | none => 0

/-- Kind of a gate entry, by its index. -/
def Course.gateKind (c : Course) (index : Nat) : GateKind :=
  match c.gates[index]? with
  | some g => g.kind
  | none => .plain

/-- Course position of a gate (R8). -/
def Course.position (c : Course) (g : Gate) : Nat := (g.lap - 1) * c.lapLength + c.gateDistance g.index

/-- The gate after a gate along the chain; absent after gate 0 of lap laps + 1 (R10). -/
def Course.next (c : Course) (laps : Nat) (g : Gate) : Option Gate :=
  if g.lap = laps + 1 then none
  else if g.index + 1 < c.gates.length then some ⟨g.lap, g.index + 1⟩
  else some ⟨g.lap + 1, 0⟩

/-- Number of gates in the chain (R10). -/
def Course.chainLength (c : Course) (laps : Nat) : Nat := laps * c.gates.length + 1

/-- The finish distance F (R9). -/
def Course.finish (c : Course) (laps : Nat) : Nat := laps * c.lapLength

/-- The first gate of every race: gate 0 of lap 1. -/
def startGate : Gate := ⟨1, 0⟩

end Sys2Proof.Machine
end

