-- ==== Sys2Proof/Machine/Flags.lean ====
section
/-! DEFINITION. The flags of a car: their clear values, their bytes (Table 11.4) and CLEAR_FLAGS. -/
namespace Sys2Proof.Machine

/-- All status flags clear (R86). -/
def StatusFlags.clear : StatusFlags := ⟨false, false, false, false⟩

/-- All sticky flags clear (R87). -/
def StickyFlags.clear : StickyFlags := ⟨false, false, false, false⟩

/-- A byte from its four low bits, bit 0 first. -/
def flagByte (b0 b1 b2 b3 : Bool) : Nat :=
  b0.toNat + 2 * b1.toNat + 4 * b2.toNat + 8 * b3.toNat

/-- The status flag byte (Table 11.4). -/
def StatusFlags.code (f : StatusFlags) : Nat :=
  flagByte f.reversing f.rateLimited f.atFloor f.wrongWay

/-- The sticky flag byte (Table 11.4). -/
def StickyFlags.code (f : StickyFlags) : Nat :=
  flagByte f.wrongWaySeen f.rateSeen f.floorSeen f.jumpStart

/-- The sticky flags with those that the mask selects cleared (R89); other mask bits are ignored. -/
def StickyFlags.clearMasked (mask : Nat) (f : StickyFlags) : StickyFlags :=
  { wrongWaySeen := f.wrongWaySeen && !mask.testBit 0
    rateSeen := f.rateSeen && !mask.testBit 1
    floorSeen := f.floorSeen && !mask.testBit 2
    jumpStart := f.jumpStart && !mask.testBit 3 }

end Sys2Proof.Machine
end

