-- ==== Sys2Proof/Machine/Ops.lean ====
section
/-! DEFINITION. The named operations over ports, cars and the race record: reading and changing one of
them, offering notices, granting a race request and answering at the head of a queue. -/
namespace Sys2Proof.Machine

/-! ### One port, one car, the race record -/

/-- Port `p` and its supervisor. -/
def State.port (s : State) (p : Port) : PortState := s.ports.get p

/-- The state with port `p` changed. -/
def State.modifyPort (s : State) (p : Port) (f : PortState → PortState) : State :=
  { s with ports := s.ports.set p (f (s.ports.get p)) }

/-- The car record of slot `p`; `none` is EMPTY (R41). -/
def State.car (s : State) (p : Port) : Option Car := s.cars.get p

/-- The state with the car of slot `p`, if it has one, changed. -/
def State.modifyCar (s : State) (p : Port) (f : Car → Car) : State :=
  { s with cars := s.cars.set p ((s.cars.get p).map f) }

/-- The state with the race record changed. -/
def State.modifyRace (s : State) (f : RaceRecord → RaceRecord) : State := { s with race := f s.race }

/-! ### Standings -/

/-- The car state that a standing is (Table 3.2). -/
def Standing.state : Standing → CarState
  | .entered => .entered
  | .ready => .ready
  | .racing => .racing
  | .coasting => .coasting
  | .finished _ => .finished
  | .stopped => .stopped
  | .retired _ _ => .retired

/-- The state of the car of slot `p`. -/
def State.carState (s : State) (p : Port) : CarState :=
  match s.car p with
  | none => .empty
  | some c => c.standing.state

/-- A car that is still running: RACING or COASTING (R34). -/
def Standing.running : Standing → Bool
  | .racing | .coasting => true
  | .entered | .ready | .finished _ | .stopped | .retired _ _ => false

/-- A car that counts for the abort vote: RACING, COASTING or FINISHED (R126). -/
def Standing.eligible : Standing → Bool
  | .racing | .coasting | .finished _ => true
  | .entered | .ready | .stopped | .retired _ _ => false

/-- How many cars have a standing that satisfies a test. -/
def State.countCars (s : State) (test : Standing → Bool) : Nat :=
  s.cars.count fun c => match c with
    | none => false
    | some c => test c.standing

/-- How many cars are not EMPTY. -/
def State.carCount (s : State) : Nat := s.countCars fun _ => true

/-- The eligible count (R126). -/
def State.eligibleCount (s : State) : Nat := s.countCars Standing.eligible

/-- The vote count (R121). -/
def State.voteCount (s : State) : Nat := s.race.votes.count Option.isSome

/-- The race runs: GREEN or FINISHING. -/
def Phase.running : Phase → Bool
  | .green | .finishing => true
  | .idle | .forming | .grid | .countdown | .results => false

/-- The finish list, the groups and the results order apply: from the green on (R93). -/
def Phase.afterGreen : Phase → Bool
  | .green | .finishing | .results => true
  | .idle | .forming | .grid | .countdown => false

/-- The running order (R92, R93): the entry list before the green, from then on the FINISHED group, the
active group and the RETIRED group. -/
def State.runningOrder (s : State) : List Port :=
  if s.race.phase.afterGreen then s.finishList.map FinishEntry.slot ++ s.activeGroup ++ s.retiredGroup
  else s.entryList

/-- The 1-based place of slot `p` in the running order (R92). -/
def State.position (s : State) (p : Port) : Nat :=
  match s.runningOrder.idxOf? p with
  | some i => i + 1
  | none => 0

/-! ### Notices (R160 to R163) -/

/-- A port takes a notice offered to it according to its link and its queue (R162). -/
def PortState.offer (n : Notice) (c : PortState) : PortState :=
  match c.link with
  | .down => c
  | .up =>
    if c.noticeQueue.length < noticeCapacity then { c with noticeQueue := c.noticeQueue ++ [n] }
    else { c with overflow := true }

/-- A notice is offered to each port that `sel` selects, each independently (R160). -/
def State.notify (sel : Port → Bool) (n : Notice) (s : State) : State :=
  { s with ports := s.ports.mapPorts fun p c => if sel p then c.offer n else c }

/-- The present ports (Table 9.2). -/
def State.isPresentPort (s : State) (p : Port) : Bool := (s.port p).presence = .present

/-- The race ports (Table 9.2). -/
def State.isRacePort (s : State) (p : Port) : Bool := (s.car p).isSome

/-- A notice for the race ports. -/
def State.notifyRace (n : Notice) (s : State) : State := s.notify s.isRacePort n

/-- A notice for one port alone. -/
def State.notifyOwn (p : Port) (n : Notice) (s : State) : State := s.notify (fun q => q = p) n

/-- A PHASE notice for the present ports, with the race number as it stands (R166). -/
def State.notifyPhase (r : PhaseReport) (s : State) : State :=
  s.notify s.isPresentPort (.phase r s.race.number)

/-! ### Queues of a port (R175 to R177) -/

/-- The head of the request queue leaves it. -/
def PortState.dropRequest (c : PortState) : PortState := { c with requestQueue := c.requestQueue.tail }

/-- A response is placed at the tail of the response queue. -/
def PortState.respond (r : Response) (c : PortState) : PortState :=
  { c with responseQueue := c.responseQueue ++ [r] }

/-- The requests that the port answers itself, without the arbiter (R63). -/
def RequestKind.portLocal : RequestKind → Bool
  | .identify | .nop | .setPush | .clearErrors => true
  | .openRace | .setRules | .loadCourse | .enter | .carSetup | .closeEntries | .ready | .leave
  | .report | .clearFlags | .snapshot | .readLaps | .readResults | .abortVote | .withdrawVote => false

/-- The head of the request queue, unless a full response queue holds it back (R176). -/
def PortState.head (c : PortState) : Option Queued :=
  if c.responseQueue.length < responseCapacity then c.requestQueue.head? else none

/-- The race request that waits for a grant at the head of the queue (R61, R176). -/
def PortState.raceRequest (c : PortState) : Option Request :=
  match c.head with
  | some (.request r) => if r.kind.portLocal then none else some r
  | some (.unknown _ _) | none => none

/-! ### Grants (R61 to R63) -/

/-- The order in which the arbiter looks at the ports: upward from the one after the pointer, wrapping
from 7 to 0, the pointer's own port last (R61). -/
def arbiterOrder (pointer : Port) : List Port :=
  [pointer + 1, pointer + 2, pointer + 3, pointer + 4, pointer + 5, pointer + 6, pointer + 7, pointer]

/-- The port that the arbiter grants next (R61). -/
def State.arbiterChoice (s : State) : Option Port :=
  (arbiterOrder s.raaPointer).find? fun p => (s.port p).raceRequest.isSome

/-- The request that a grant to port `p` performs, when the arbiter grants `p` and the request at its
head is of kind `k`. -/
def State.granted (s : State) (p : Port) (k : RequestKind) : Option Request :=
  if s.arbiterChoice = some p then
    match (s.port p).raceRequest with
    | some r => if r.kind = k then some r else none
    | none => none
  else none

/-- A grant (R61): the request leaves the queue, is performed whole, its response is placed, and the
pointer is set to the granted port. Where the arbiter grants port `p` no request of kind `k`, there is
no such grant and nothing happens. -/
def State.grant (s : State) (p : Port) (k : RequestKind)
    (perform : Request → State → State × Response) : State :=
  match s.granted p k with
  | none => s
  | some r =>
    let done := perform r (s.modifyPort p PortState.dropRequest)
    { done.1.modifyPort p (·.respond done.2) with raaPointer := p }

/-- The port-local request of kind `k` at the head of the queue of port `p` (R176). -/
def State.localRequest (s : State) (p : Port) (k : RequestKind) : Option Request :=
  match (s.port p).head with
  | some (.request r) => if r.kind = k then some r else none
  | some (.unknown _ _) | none => none

/-- A port-local request is answered at the head (R176): the answer performs it, removes it from the
queue and places its response. -/
def State.answer (s : State) (p : Port) (k : RequestKind)
    (perform : Request → State → State × Response) : State :=
  match s.localRequest p k with
  | none => s
  | some r =>
    let done := perform r (s.modifyPort p PortState.dropRequest)
    done.1.modifyPort p (·.respond done.2)

/-! ### Time shown to a cabinet -/

/-- The time of a snapshot header and of a REPORT_ACK (R152, Table 4.5): the countdown remaining in
COUNTDOWN, the race clock from the green, and 0 before. -/
def State.shownTime (s : State) : Nat :=
  match s.race.phase with
  | .idle | .forming | .grid => 0
  | .countdown =>
    match s.race.holdSlot with
    | some saved => saved
    | none => s.race.countdown.getD 0
  | .green | .finishing | .results => s.raceClock

end Sys2Proof.Machine
end

