-- ==== Sys2Proof/Machine/Order.lean ====
section
/-! DEFINITION. The entry list and the running order (03 section 3.2, 05): append, removal,
reinsertion, finish move and retirement move, and the notices of a move. -/
namespace Sys2Proof.Machine

/-! ### Notices of a move -/

/-- One POSITION notice on its own port for each car whose position differs, in order of the new
positions (R100). A car that had no position before receives none. -/
def State.notifyPositions (old new : List Port) (s : State) : State :=
  new.zipIdx.foldl
    (fun s e =>
      match old.idxOf? e.1 with
      | none => s
      | some i => if i = e.2 then s else s.notifyOwn e.1 (.position (e.2 + 1)))
    s

/-- A LEADER notice for the race ports when a different car now stands at position 1 (R101). -/
def State.notifyLeader (old new : List Port) (s : State) : State :=
  match new.head? with
  | none => s
  | some p => if old.head? = some p then s else s.notifyRace (.leader p)

/-- The notices of a move other than an append: POSITION notices, then the LEADER notice (R100, R101). -/
def State.notifyMove (old : List Port) (s : State) : State :=
  (s.notifyPositions old s.runningOrder).notifyLeader old s.runningOrder

/-! ### The entry list (R44) -/

/-- A car as it enters a race (Table 3.4), at an entry position. -/
def Car.entry (position : Nat) : Car :=
  { standing := .entered, entryPosition := position, carClass := 0, tag := ⟨0x20, 0x20, 0x20⟩,
    rateLimit := entryRateLimit, distance := 0, floorGate := startGate, nextGate := none,
    lastReport := 0, distanceChange := 0, reverseRun := 0, status := .clear, sticky := .clear,
    penalty := 0, lastLine := 0, laps := [], pose := none }

/-- The car of slot `p` becomes ENTERED at the end of the entry list (R44, R47). -/
def State.appendEntry (p : Port) (s : State) : State :=
  { s with
    cars := s.cars.set p (some (Car.entry (s.entryList.length + 1)))
    entryList := s.entryList ++ [p] }

/-- A car behind an entry position that falls vacant moves up by one (R44). -/
def Car.closeUp (vacant : Nat) (c : Car) : Car :=
  if vacant < c.entryPosition then { c with entryPosition := c.entryPosition - 1 } else c

/-- The car of slot `p` leaves the entry list, the cars behind it move up, and it becomes EMPTY
(R44, R43). -/
def State.removeEntry (p : Port) (vacant : Nat) (s : State) : State :=
  { s with
    cars := (s.cars.map (Option.map (Car.closeUp vacant))).set p none
    entryList := s.entryList.filter (fun q => q ≠ p) }

/-- The positions in the entry list that an ENTRY notice and an ENTER response give. -/
def State.entryPosition (s : State) (p : Port) : Nat :=
  match s.car p with
  | none => 0
  | some c => c.entryPosition

/-! ### The groups (R93 to R98) -/

/-- D of a car, as the groups compare it. -/
def State.distance (s : State) (p : Port) : Nat :=
  match s.car p with
  | none => 0
  | some c => c.distance

/-- Slot `p` put immediately after the last slot of a list that satisfies a test, or at the head of the
list if none does. -/
def insertAfterLast (test : Port → Bool) (p : Port) : List Port → List Port
  | [] => [p]
  | q :: rest =>
    if (q :: rest).any test then q :: insertAfterLast test p rest else p :: q :: rest

/-- A car placed in a group by its D: immediately after the last car whose D is at least its own
(R94, R98). -/
def State.placeByDistance (s : State) (p : Port) (group : List Port) : List Port :=
  insertAfterLast (fun q => decide (s.distance p ≤ s.distance q)) p group

/-- Reinsertion of a car of the active group whose D has changed (R94). -/
def State.reinsert (p : Port) (s : State) : State :=
  { s with activeGroup := s.placeByDistance p (s.activeGroup.filter (fun q => q ≠ p)) }

/-- The finish move: the car leaves the active group. Its entry in the finish list, made just before,
is its place at the end of the FINISHED group (R97). -/
def State.finishMove (p : Port) (s : State) : State :=
  { s with activeGroup := s.activeGroup.filter (fun q => q ≠ p) }

/-- The retirement move: from the active group into the RETIRED group (R98). -/
def State.retirementMove (p : Port) (s : State) : State :=
  { s with
    activeGroup := s.activeGroup.filter (fun q => q ≠ p)
    retiredGroup := s.placeByDistance p s.retiredGroup }

end Sys2Proof.Machine
end

