-- ==== Sys2Proof/Machine/Classification.lean ====
section
/-! DEFINITION. The results table (05 section 5.4). -/
namespace Sys2Proof.Machine

/-- The least entry of a lap list; absent when it is empty (R108). -/
def bestLap : List Nat → Option Nat
  | [] => none
  | lap :: rest =>
    match bestLap rest with
    | none => some lap
    | some best => some (min lap best)

/-- The penalty of the car of slot `p`. -/
def State.penalty (s : State) (p : Port) : Nat :=
  match s.car p with
  | none => 0
  | some c => c.penalty

/-- Total time of a finish-list entry: finish time plus penalty (R107). -/
def State.totalTime (s : State) (e : FinishEntry) : Nat := e.time + s.penalty e.slot

/-- An entry put before every entry of a list whose total time is not less than its own. -/
def State.insertByTotal (s : State) (e : FinishEntry) : List FinishEntry → List FinishEntry
  | [] => [e]
  | f :: rest =>
    if s.totalTime e ≤ s.totalTime f then e :: f :: rest else f :: s.insertByTotal e rest

/-- The finish list in order of total time, equal totals in finish-list order (R107). -/
def State.byTotal (s : State) : List FinishEntry → List FinishEntry
  | [] => []
  | e :: rest => s.insertByTotal e (s.byTotal rest)

/-- The slots in classification order: the FINISHED band, the STOPPED band, the RETIRED band (R106). -/
def State.classification (s : State) : List Port :=
  (s.byTotal s.finishList).map FinishEntry.slot ++ s.activeGroup ++ s.retiredGroup

/-- Finish time of a standing, when FINISHED. -/
def Standing.finishTime : Standing → Option Nat
  | .finished t => some t
  | .entered | .ready | .racing | .coasting | .stopped | .retired _ _ => none

/-- Retire reason of a standing, when RETIRED. -/
def Standing.retireReason : Standing → Option Reason
  | .retired r _ => some r
  | .entered | .ready | .racing | .coasting | .finished _ | .stopped => none

/-- Retire time of a standing, when RETIRED. -/
def Standing.retireTime : Standing → Option Nat
  | .retired _ t => some t
  | .entered | .ready | .racing | .coasting | .finished _ | .stopped => none

/-- The results table entry of a car (R108), at a classified position. -/
def Car.result (c : Car) (slot : Port) (position : Nat) : ResultEntry :=
  { position := position
    slot := slot
    state := c.standing.state
    lapsCompleted := c.laps.length
    distance := c.distance
    finishTime := c.standing.finishTime
    penalty := c.penalty
    totalTime := c.standing.finishTime.map (· + c.penalty)
    bestLap := bestLap c.laps
    retireReason := c.standing.retireReason
    retireTime := c.standing.retireTime }

/-- The results table built from the state as it stands (R105). -/
def State.buildResults (s : State) (reason : Reason) : ResultsTable :=
  { reason := reason
    entries := s.classification.zipIdx.filterMap fun e =>
      (s.car e.1).map fun c => c.result e.1 (e.2 + 1) }

end Sys2Proof.Machine
end

