-- ==== Sys2Proof/Machine/Race.lean ====
section
/-! DEFINITION. The Race Control Unit's shared operations (02, 03, 06): return to IDLE, entry into
COUNTDOWN, GREEN and RESULTS, holds, withdrawals, retirements, the end tests and the release test. -/
namespace Sys2Proof.Machine

/-! ### Return to IDLE (R38 to R40) -/

/-- The race record as the return to IDLE clears it; the race number and the settings stay (R40). -/
def RaceRecord.cleared (r : RaceRecord) : RaceRecord :=
  { RaceRecord.reset with number := r.number, settings := r.settings }

/-- The clearing of the race state on the return to IDLE (R40), push timers included (R156). -/
def State.clearRace (s : State) : State :=
  { s with
    race := s.race.cleared
    raceClock := 0
    course := none
    cars := .fill none
    entryList := []
    activeGroup := []
    retiredGroup := []
    finishList := []
    resultsTable := none
    ports := s.ports.map fun c => { c with pushTimer := none } }

/-- The return to IDLE with its PHASE notice: release, results hold expiry or dissolution (R38, R39). -/
def State.returnToIdle (reason : Reason) (s : State) : State :=
  s.clearRace.notifyPhase (.changed .idle reason)

/-! ### Closing entries (R24, R25) -/

/-- Entry into GRID: the entry window stops, the opener becomes absent, the grid wait starts. -/
def State.enterGrid (s : State) : State :=
  (s.modifyRace fun r =>
    { r with phase := .grid, opener := none, entryWindow := none,
             gridWait := some r.settings.gridWait }).notifyPhase (.changed .grid .none)

/-- The entry window has run for its setting, measured from its OPEN_RACE (R20). -/
def State.entryWindowDue (s : State) : Bool :=
  decide (s.race.phase = .forming) &&
    match s.race.entryWindow with
    | some passed => decide (s.race.settings.entryWindow ≤ passed)
    | none => false

/-- Expiry of the entry window (R25). -/
def State.entryWindowExpiry (s : State) : State :=
  if s.entryWindowDue then
    match s.course with
    | some _ => s.enterGrid
    | none => s.returnToIdle .noCourse
  else s

/-! ### Countdown and holds (R27, R113 to R119) -/

/-- The car of slot `p` is READY and its port is LATE. -/
def State.readyAndLate (s : State) (p : Port) : Bool :=
  s.carState p = .ready && decide ((s.port p).presence = .late)

/-- At least one READY car's port is LATE (R114). -/
def State.anyReadyLate (s : State) : Bool := allPorts.any s.readyAndLate

/-- Entry into COUNTDOWN, running (R27) or held (R116). -/
def State.enterCountdown (s : State) : State :=
  if s.anyReadyLate then
    ((s.modifyRace fun r =>
      { r with phase := .countdown, gridWait := none, countdown := none,
               holdSlot := some r.settings.countdownLength }).notifyPhase
        (.changed .countdown .none)).notifyPhase .held
  else
    (s.modifyRace fun r =>
      { r with phase := .countdown, gridWait := none, holdSlot := none,
               countdown := some r.settings.countdownLength }).notifyPhase (.changed .countdown .none)

/-- A hold begins (R115): the time left is saved, at least 1 ms, and the countdown timer stops. -/
def State.beginHold (s : State) : State :=
  (s.modifyRace fun r =>
    { r with holdSlot := some (max 1 (r.countdown.getD 0)), countdown := none }).notifyPhase .held

/-- The countdown resumes from the saved time, and the slot empties (R118). -/
def State.resume (saved : Nat) (s : State) : State :=
  (s.modifyRace fun r => { r with holdSlot := none, countdown := some saved }).notifyPhase .resumed

/-- The hold test (R114); made in COUNTDOWN alone. -/
def State.holdTest (s : State) : State :=
  if s.race.phase = .countdown then
    match s.race.holdSlot, s.anyReadyLate with
    | none, true => s.beginHold
    | some saved, false => s.resume saved
    | none, false => s
    | some _, true => s
  else s

/-- Every car that is not EMPTY is READY, and there is at least one (R27). -/
def State.allReady (s : State) : Bool :=
  decide (0 < s.carCount) && decide (s.countCars (fun x => x = .ready) = s.carCount)

/-- The tests of GRID after a READY or a withdrawal: collapse (R29), then all READY (R27). -/
def State.gridTests (s : State) : State :=
  if s.carCount = 0 then s.returnToIdle .noStarters
  else if s.allReady then s.enterCountdown
  else s

/-- The tests of COUNTDOWN after a withdrawal: collapse (R29), then the hold test (R114). -/
def State.countdownTests (s : State) : State :=
  if s.carCount = 0 then s.returnToIdle .noStarters else s.holdTest

/-! ### Withdrawal (R52) and the opener handover (R23) -/

/-- The handover: the lowest-numbered port whose car is ENTERED becomes opener, or the race is
dissolved. -/
def State.handover (s : State) : State :=
  match allPorts.find? (fun p => s.carState p = .entered) with
  | some p => (s.modifyRace fun r => { r with opener := some p }).notifyPhase (.opener p)
  | none => s.returnToIdle .noOpener

/-- The four steps of a withdrawal (R52); an EMPTY car is not withdrawn. -/
def State.withdraw (p : Port) (reason : Reason) (s : State) : State :=
  match s.car p with
  | none => s
  | some c =>
    ((s.notifyRace (.entry p .withdrawn reason c.entryPosition)).removeEntry p
      c.entryPosition).notifyMove s.runningOrder

/-- Several withdrawals of one event, one after another in the order of a list (R52). -/
def State.withdrawEach (ports : List Port) (reason : Reason) (s : State) : State :=
  ports.foldl (fun s p => s.withdraw p reason) s

/-- A withdrawal with the tests of the phase that follow it (R52, R53). -/
def State.withdrawAndTest (p : Port) (reason : Reason) (s : State) : State :=
  let s' := s.withdraw p reason
  match s'.race.phase with
  | .forming => if s'.race.opener = some p then s'.handover else s'
  | .grid => s'.gridTests
  | .countdown => s'.countdownTests
  | .idle | .green | .finishing | .results => s'

/-! ### The green (R30) -/

/-- A READY car at the green: RACING with its progress fields at their start values. -/
def Car.start (next : Option Gate) (c : Car) : Car :=
  if c.standing = .ready then
    { c with standing := .racing, distance := 0, floorGate := startGate, nextGate := next,
             lastReport := 0, lastLine := 0 }
  else c

/-- The gate after a gate in the race as it stands (R10). -/
def State.nextGate (s : State) (g : Gate) : Option Gate :=
  match s.course with
  | none => none
  | some c => c.next s.race.settings.laps g

/-- Entry into GREEN. -/
def State.enterGreen (s : State) : State :=
  ({ s with
      race := { s.race with phase := .green, countdown := none }
      raceClock := 0
      cars := s.cars.map (Option.map (Car.start (s.nextGate startGate)))
      activeGroup := s.entryList } : State).notifyPhase (.changed .green .none)

/-! ### Results and release (R36 to R38) -/

/-- A running car stops where it stands (R36, step 2). -/
def Car.stop (c : Car) : Car := if c.standing.running then { c with standing := .stopped } else c

/-- The release test: when every race port is in the release set, the race returns to IDLE (R37). -/
def State.releaseTest (s : State) : State :=
  if allPorts.all (fun p => !s.isRacePort p || s.race.releaseSet.get p) then s.returnToIdle .released
  else s

/-- A port joins the release set, and the release test follows (R37). -/
def State.release (p : Port) (s : State) : State :=
  (s.modifyRace fun r => { r with releaseSet := r.releaseSet.set p true }).releaseTest

/-- Steps 1 to 4 of the entry into RESULTS: the phase and the reason, the running cars stop, the closing
window stops and the vote set is emptied. The race clock counts in GREEN and FINISHING alone (R31). -/
def State.stopRace (reason : Reason) (s : State) : State :=
  { s with
    race := { s.race with phase := .results, resultsReason := some reason, closingWindow := none,
                          votes := .fill none }
    cars := s.cars.map (Option.map Car.stop) }

/-- Steps 5 to 7: the results table is built, the LOST race ports enter the release set, and the results
hold starts. -/
def State.openResults (reason : Reason) (s : State) : State :=
  { s with
    resultsTable := some (s.buildResults reason)
    race := { s.race with
      releaseSet := s.ports.mapPorts fun p c => s.isRacePort p && decide (c.presence = .lost)
      resultsHold := some s.race.settings.resultsHold } }

/-- Entry into RESULTS (R36). -/
def State.enterResults (reason : Reason) (s : State) : State :=
  (((s.stopRace reason).openResults reason).notifyPhase (.changed .results reason)).releaseTest

/-! ### End tests (R32, R34, R126) -/

/-- No car is RACING or COASTING (R34). -/
def State.allDone (s : State) : Bool := s.countCars Standing.running = 0

/-- Twice the vote count exceeds the eligible count (R126). -/
def State.thresholdMet (s : State) : Bool := s.eligibleCount < 2 * s.voteCount

/-- Entry into FINISHING at the first finish (R32). -/
def State.enterFinishing (s : State) : State :=
  (s.modifyRace fun r =>
    { r with phase := .finishing, closingWindow := some r.settings.closingWindow }).notifyPhase
      (.changed .finishing .none)

/-- Whether a standing is FINISHED. -/
def Standing.isFinished : Standing → Bool
  | .finished _ => true
  | .entered | .ready | .racing | .coasting | .stopped | .retired _ _ => false

/-- The end tests of R32, in their order; `afterFinish` says that they follow a finish and not a
retirement. -/
def State.endTests (afterFinish : Bool) (s : State) : State :=
  if s.allDone then
    s.enterResults (if 0 < s.countCars Standing.isFinished then .allFinished else .allRetired)
  else if s.thresholdMet then s.enterResults .aborted
  else if afterFinish && decide (s.race.phase = .green) then
    if s.race.settings.closingWindow = 0 then s.enterResults .closed else s.enterFinishing
  else s

/-! ### Votes (R121 to R128) -/

/-- The VOTE notice with both counts as they stand (R128). -/
def State.notifyVotes (s : State) : State := s.notifyRace (.vote s.voteCount s.eligibleCount)

/-- The vote of port `p` leaves the vote set, if it holds one. -/
def State.dropVote (p : Port) (s : State) : State :=
  s.modifyRace fun r => { r with votes := r.votes.set p none }

/-! ### Retirement (R54) -/

/-- The four steps of a retirement. -/
def State.retire (p : Port) (reason : Reason) (s : State) : State :=
  let retired := s.modifyCar p fun c => { c with standing := .retired reason s.raceClock }
  let moved := ((retired.notifyRace (.carState p .retired reason)).retirementMove p).notifyMove
    s.runningOrder
  ((moved.dropVote p).notifyVotes).endTests false

end Sys2Proof.Machine
end

