-- ==== Sys2Proof/Machine/Supervision.lean ====
section
/-! DEFINITION. The port supervisors (07): changes of presence with their effects on the race, major
errors, the fence, and the loss of a link (10 section 10.6). -/
namespace Sys2Proof.Machine

/-! ### Effects of presence on the race (R136 to R139) -/

/-- The effects of a port going LATE; the reason is that of a coasting car's CAR_STATE notice (R137). -/
def State.lateEffects (p : Port) (reason : Reason) (s : State) : State :=
  if s.race.phase.running then
    if s.carState p = .racing then
      (s.modifyCar p fun c => { c with standing := .coasting }).notifyRace (.carState p .coasting reason)
    else s
  else if s.race.phase = .countdown ∧ s.carState p = .ready then s.holdTest
  else s

/-- The effects of a port returning from LATE to PRESENT (R138). -/
def State.returnEffects (p : Port) (s : State) : State :=
  if s.race.phase.running then
    if s.carState p = .coasting then
      (s.modifyCar p fun c => { c with standing := .racing }).notifyRace (.carState p .racing .none)
    else s
  else if s.race.phase = .countdown ∧ s.carState p = .ready then s.holdTest
  else s

/-- The effects of a port becoming LOST (R139). -/
def State.lostEffects (p : Port) (s : State) : State :=
  match s.race.phase with
  | .idle => s
  | .forming | .grid | .countdown =>
    if s.isRacePort p then s.withdrawAndTest p .silent else s
  | .green | .finishing =>
    if s.carState p = .coasting then s.retire p (if (s.port p).fenced then .fenced else .silent) else s
  | .results => if s.isRacePort p then s.release p else s

/-! ### Changes of presence -/

/-- The port becomes LATE and the second stage starts (R132, R133, R143). -/
def State.goLate (p : Port) (reason : Reason) (s : State) : State :=
  (s.modifyPort p fun c =>
    { c with presence := .late, silence := .second secondStageLength }).lateEffects p reason

/-- The port becomes PRESENT and the first stage starts; a return from LATE has its effects (R131,
R144). -/
def State.becomePresent (p : Port) (s : State) : State :=
  let s' := s.modifyPort p fun c =>
    { c with presence := .present, silence := .first firstStageLength }
  if (s.port p).presence = .late then s'.returnEffects p else s'

/-- The port becomes LOST and the silence timer stops (R134). -/
def State.becomeLost (p : Port) (s : State) : State :=
  (s.modifyPort p fun c => { c with presence := .lost, silence := .stopped }).lostEffects p

/-- The presence event of a valid frame; a fenced port does not act on it (R131). -/
def State.validFramePresence (p : Port) (s : State) : State :=
  if (s.port p).fenced then s else s.becomePresent p

/-! ### Major errors (R140 to R143) -/

/-- The port is fenced (R143). -/
def State.fence (p : Port) (s : State) : State :=
  let s' := s.modifyPort p fun c => { c with fenced := true }
  match (s.port p).presence with
  | .present | .lost => s'.goLate p .fenced
  | .late | .absent => s'

/-- The supervisor takes a major error (R140 to R142). -/
def State.majorError (p : Port) (kind : ErrorKind) (requestKind : Option Byte) (s : State) : State :=
  match (s.port p).errorRecord with
  | none =>
    (s.modifyPort p fun c =>
      { c with errorRecord := some ⟨kind, requestKind, s.raceClock, false⟩ }).notifyOwn p (.error kind)
  | some record =>
    if record.multiple then
      if (s.port p).fenced then s else s.fence p
    else s.modifyPort p fun c => { c with errorRecord := some { record with multiple := true } }

/-- A request whose reserved bytes are not all zero is reported as BAD_FIELD once its response stands in
the queue (R185). -/
def State.reportReserved (p : Port) (r : Request) (s : State) : State :=
  if r.kind.reservedNonzero r.payload then s.majorError p .badField (some r.kind.code) else s

/-! ### Link loss (R179) -/

/-- What the port itself loses when its link goes DOWN, any candidate being received with it (R179,
R171). -/
def PortState.dropLink (c : PortState) : PortState :=
  { c with link := .down, badChecks := 0, receiver := ⟨[], 0⟩, requestQueue := [], responseQueue := [],
           noticeQueue := [], overflow := false, pushInterval := 0, pushTimer := none, pushSlot := none,
           sending := none }

/-- The link of a port goes DOWN: the port is flushed and its supervisor is told (R179, R133). -/
def State.linkDown (p : Port) (s : State) : State :=
  let s' := s.modifyPort p PortState.dropLink
  if (s.port p).presence = .present then s'.goLate p .silent else s'

end Sys2Proof.Machine
end

