-- ==== Sys2Proof/Machine/Forming.lean ====
section
/-! DEFINITION. OPEN_RACE, SET_RULES, LOAD_COURSE, ENTER, CAR_SETUP and CLOSE_ENTRIES: the requests that
prepare a race (01, 02, 03). -/
namespace Sys2Proof.Machine

/-- A refusal: nothing changes, and the response is the result code alone (R177). -/
def refuse (k : RequestKind) (code : ResultCode) (s : State) : State × Response := (s, .bare k code)

/-- The phases in which the settings and the course are locked (R12, R18). -/
def Phase.locked : Phase → Bool
  | .grid | .countdown | .green | .finishing | .results => true
  | .idle | .forming => false

/-! ### OPEN_RACE (R21) -/

/-- The race number after one more OPEN_RACE (R16). -/
def nextRaceNumber (n : Nat) : Nat := if n < 255 then n + 1 else 1

/-- The push timer of a port starts when the race leaves IDLE (R156). -/
def PortState.startPush (c : PortState) : PortState :=
  if c.pushInterval ≠ 0 ∧ c.link = .up then { c with pushTimer := some c.pushInterval } else c

/-- The opening of a race by port `p` (R21). -/
def State.openRace (p : Port) (s : State) : State :=
  let opened : State :=
    { s with
      race := { s.race with number := nextRaceNumber s.race.number, phase := .forming, opener := some p,
                            settings := .default, entryWindow := some 0 }
      ports := s.ports.map PortState.startPush }
  let entered := opened.appendEntry p
  (entered.notifyPhase (.changed .forming .none)).notifyRace
    (.entry p .entered .none (entered.entryPosition p))

/-- OPEN_RACE (R21). -/
def performOpenRace (p : Port) (_r : Request) (s : State) : State × Response :=
  if (s.port p).fenced then refuse .openRace .fenced s
  else if s.race.phase ≠ .idle then refuse .openRace .raceExists s
  else
    let s' := s.openRace p
    (s', .openRace s'.race.number)

/-- A grant of OPEN_RACE to port `p`. -/
def execOpenRace (p : Port) (s : State) : Host.Outcome State Fault Refusal :=
  .next (s.grant p .openRace (performOpenRace p))

/-! ### SET_RULES (R19, R20) -/

/-- The check of SET_RULES that fails first, if one does (R19). -/
def State.rulesRefusal (p : Port) (r : Request) (s : State) : Option ResultCode :=
  if (s.port p).fenced then some .fenced
  else if s.race.phase = .idle then some .noRace
  else if s.race.phase.locked then some .locked
  else if s.race.opener ≠ some p then some .notOpener
  else if !rulesInRange r.payload then some .range
  else none

/-- SET_RULES. The entry window counts from its OPEN_RACE, so a new length moves its expiry. -/
def performSetRules (p : Port) (r : Request) (s : State) : State × Response :=
  match s.rulesRefusal p r with
  | some code => refuse .setRules code s
  | none =>
    let s' := s.modifyRace fun x => { x with settings := x.settings.apply r.payload }
    (s', .setRules s'.race.settings)

/-- A grant of SET_RULES to port `p`. A new length of the entry window that has already passed makes the
window expire at once, after the grant (R20). -/
def execSetRules (p : Port) (s : State) : Host.Outcome State Fault Refusal :=
  .next (
    match s.granted p .setRules with
    | none => s
    | some r =>
      let done := s.grant p .setRules (performSetRules p)
      if s.rulesRefusal p r = none ∧ (rulesMask r.payload).testBit 2 then done.entryWindowExpiry
      else done)

/-! ### LOAD_COURSE (R4 to R6) -/

/-- The ENTERED cars other than the car of port `p`, in ascending slot order. -/
def State.otherEntered (s : State) (p : Port) : List Port :=
  allPorts.filter fun q => decide (q ≠ p) && decide (s.carState q = .entered)

/-- The course record is replaced, and the entries made against another check value are withdrawn
(R5, R6). -/
def State.loadCourse (p : Port) (c : Course) (s : State) : State :=
  let loaded : State := { s with course := some c }
  if s.course.map Course.checkValue = some c.checkValue then loaded
  else loaded.withdrawEach (s.otherEntered p) .courseChanged

/-- LOAD_COURSE. -/
def performLoadCourse (p : Port) (r : Request) (s : State) : State × Response :=
  if (s.port p).fenced then refuse .loadCourse .fenced s
  else if s.race.phase = .idle then refuse .loadCourse .noRace s
  else if s.race.phase.locked then refuse .loadCourse .locked s
  else if s.race.opener ≠ some p then refuse .loadCourse .notOpener s
  else
    match courseOf r.payload with
    | none => refuse .loadCourse .range s
    | some c => (s.loadCourse p c, .loadCourse c.checkValue)

/-- A grant of LOAD_COURSE to port `p`. -/
def execLoadCourse (p : Port) (s : State) : Host.Outcome State Fault Refusal :=
  .next (s.grant p .loadCourse (performLoadCourse p))

/-! ### ENTER (R46, R47) -/

/-- The entry of the car of port `p`. -/
def State.enterCar (p : Port) (s : State) : State :=
  let entered := s.appendEntry p
  entered.notifyRace (.entry p .entered .none (entered.entryPosition p))

/-- ENTER. -/
def performEnter (p : Port) (r : Request) (s : State) : State × Response :=
  if (s.port p).fenced then refuse .enter .fenced s
  else if s.race.phase = .idle then refuse .enter .noRace s
  else if s.race.phase ≠ .forming then refuse .enter .wrongPhase s
  else if s.isRacePort p then refuse .enter .alreadyEntered s
  else
    match s.course with
    | none => refuse .enter .notReady s
    | some c =>
      if c.checkValue ≠ enterCheck r.payload then refuse .enter .courseMismatch s
      else
        let s' := s.enterCar p
        (s', .enter s'.race.number (s'.entryPosition p))

/-- A grant of ENTER to port `p`. -/
def execEnter (p : Port) (s : State) : Host.Outcome State Fault Refusal :=
  .next (s.grant p .enter (performEnter p))

/-! ### CAR_SETUP (R48, R49) -/

/-- CAR_SETUP. -/
def performCarSetup (p : Port) (r : Request) (s : State) : State × Response :=
  if (s.port p).fenced then refuse .carSetup .fenced s
  else if s.race.phase = .idle then refuse .carSetup .noRace s
  else
    match s.car p with
    | none => refuse .carSetup .notEntered s
    | some c =>
      if c.standing = .ready then refuse .carSetup .locked s
      else if s.race.phase ≠ .forming ∧ s.race.phase ≠ .grid then refuse .carSetup .wrongPhase s
      else if !setupInRange r.payload then refuse .carSetup .range s
      else
        let c' := c.setup r.payload
        let changed := s.modifyCar p (Car.setup r.payload)
        let s' :=
          if setupMaskEmpty r.payload then changed
          else changed.notifyRace (.entry p .setupChanged .none c.entryPosition)
        (s', .carSetup c'.carClass c'.tag c'.rateLimit)

/-- A grant of CAR_SETUP to port `p`; a reserved byte that is not zero is reported after the response is
placed (R185). -/
def execCarSetup (p : Port) (s : State) : Host.Outcome State Fault Refusal :=
  .next (
    match s.granted p .carSetup with
    | none => s
    | some r => (s.grant p .carSetup (performCarSetup p)).reportReserved p r)

/-! ### CLOSE_ENTRIES (R24) -/

/-- CLOSE_ENTRIES. -/
def performCloseEntries (p : Port) (_r : Request) (s : State) : State × Response :=
  if (s.port p).fenced then refuse .closeEntries .fenced s
  else if s.race.phase = .idle then refuse .closeEntries .noRace s
  else if s.race.phase ≠ .forming then refuse .closeEntries .wrongPhase s
  else if s.race.opener ≠ some p then refuse .closeEntries .notOpener s
  else if s.course.isNone then refuse .closeEntries .notReady s
  else
    let s' := s.enterGrid
    (s', .closeEntries s'.entryList.length)

/-- A grant of CLOSE_ENTRIES to port `p`. -/
def execCloseEntries (p : Port) (s : State) : Host.Outcome State Fault Refusal :=
  .next (s.grant p .closeEntries (performCloseEntries p))

end Sys2Proof.Machine
end

