-- ==== Sys2Proof/Machine/Local.lean ====
section
/-! DEFINITION. IDENTIFY, NOP, SET_PUSH, CLEAR_ERRORS and the answer to an unknown frame: what a port and
its supervisor answer themselves at the head of the request queue (R176). -/
namespace Sys2Proof.Machine

/-! ### IDENTIFY and NOP (R181) -/

/-- IDENTIFY. -/
def performIdentify (p : Port) (_r : Request) (s : State) : State × Response :=
  if (s.port p).fenced then refuse .identify .fenced s
  else
    (s, .identify p s.race.number s.race.phase (s.carState p) (s.port p).presence
      (s.port p).errorRecord.isSome)

/-- IDENTIFY at the head of the queue of port `p` is answered. -/
def State.answerIdentify (p : Port) (s : State) : State := s.answer p .identify (performIdentify p)

/-- The answer to IDENTIFY. -/
def execIdentify (p : Port) (s : State) : Host.Outcome State Fault Refusal :=
  .next (s.answerIdentify p)

/-- NOP. -/
def performNop (p : Port) (_r : Request) (s : State) : State × Response :=
  if (s.port p).fenced then refuse .nop .fenced s else (s, .bare .nop .ok)

/-- NOP at the head of the queue of port `p` is answered. -/
def State.answerNop (p : Port) (s : State) : State := s.answer p .nop (performNop p)

/-- The answer to NOP. -/
def execNop (p : Port) (s : State) : Host.Outcome State Fault Refusal := .next (s.answerNop p)

/-! ### SET_PUSH (R155) -/

/-- SET_PUSH. The push timer runs in every phase but IDLE. -/
def performSetPush (p : Port) (r : Request) (s : State) : State × Response :=
  let interval := pushIntervalOf r.payload
  if (s.port p).fenced then refuse .setPush .fenced s
  else if !pushIntervalInRange interval then refuse .setPush .range s
  else
    (s.modifyPort p fun c =>
      { c with pushInterval := interval
               pushTimer := if interval = 0 ∨ s.race.phase = .idle then none else some interval },
     .setPush interval)

/-- SET_PUSH at the head of the queue of port `p` is answered; a reserved byte that is not zero is
reported after the response is placed (R185). -/
def State.answerSetPush (p : Port) (s : State) : State :=
  match s.localRequest p .setPush with
  | none => s
  | some r => (s.answer p .setPush (performSetPush p)).reportReserved p r

/-- The answer to SET_PUSH. -/
def execSetPush (p : Port) (s : State) : Host.Outcome State Fault Refusal :=
  .next (s.answerSetPush p)

/-! ### CLEAR_ERRORS (R144) -/

/-- Steps 2 to 4: the record is emptied, the fence is lifted, the port becomes PRESENT. A port that is
PRESENT, not fenced and without a record has nothing to clear and keeps its silence timer. -/
def State.clearErrors (p : Port) (s : State) : State :=
  let c := s.port p
  if c.errorRecord.isNone ∧ c.fenced = false ∧ c.presence = .present then s
  else
    (s.modifyPort p fun x => { x with errorRecord := none, fenced := false }).becomePresent p

/-- CLEAR_ERRORS, never refused. The response captures the record as it stood (step 1). -/
def performClearErrors (p : Port) (_r : Request) (s : State) : State × Response :=
  (s.clearErrors p, .clearErrors (s.port p).errorRecord (s.port p).fenced)

/-- CLEAR_ERRORS at the head of the queue of port `p` is answered. -/
def State.answerClearErrors (p : Port) (s : State) : State :=
  s.answer p .clearErrors (performClearErrors p)

/-- The answer to CLEAR_ERRORS. -/
def execClearErrors (p : Port) (s : State) : Host.Outcome State Fault Refusal :=
  .next (s.answerClearErrors p)

/-! ### Unknown frames (R176) -/

/-- An unknown frame at the head of the queue of port `p` is answered UNKNOWN_KIND, fenced or not. -/
def State.answerUnknown (p : Port) (s : State) : State :=
  match (s.port p).head with
  | some (.unknown kind _) =>
    s.modifyPort p fun c => c.dropRequest.respond (.unknownFrame kind .unknownKind)
  | some (.request _) | none => s

/-- The answer to an unknown frame. -/
def execUnknownFrameAnswer (p : Port) (s : State) : Host.Outcome State Fault Refusal :=
  .next (s.answerUnknown p)

/-- What stands at the head of the queue of port `p` is answered, if the port answers it itself (R176). -/
def State.answerHead (p : Port) (s : State) : State :=
  match (s.port p).head with
  | none => s
  | some (.unknown _ _) => s.answerUnknown p
  | some (.request r) =>
    match r.kind with
    | .identify => s.answerIdentify p
    | .nop => s.answerNop p
    | .setPush => s.answerSetPush p
    | .clearErrors => s.answerClearErrors p
    | .openRace | .setRules | .loadCourse | .enter | .carSetup | .closeEntries | .ready | .leave
    | .report | .clearFlags | .snapshot | .readLaps | .readResults | .abortVote | .withdrawVote => s

end Sys2Proof.Machine
end

