-- ==== Sys2Proof/Config.lean ====
section
/-! DEFINITION. What identifies the part (00 section 0.7). The spec leaves nothing to an implementation
and calls no result undefined, so there is no free value here. -/
namespace Sys2Proof.Config

/-- The part code of the IDENTIFY response (R181). -/
def partCode : Nat := 0x2C08

/-- The revision this model follows (R181). -/
def revision : Nat := 3

end Sys2Proof.Config
end

