-- ==== Sys2Proof/Machine/Snapshots.lean ====
section
/-! DEFINITION. The Snapshot Unit's capture (08 section 8.2) and the fields it shares with REPORT_ACK. -/
namespace Sys2Proof.Machine

/-- The current lap shown for a car (R153, Table 4.5): the lap of its floor gate, and the laps setting
for a FINISHED car. Before the green the floor gate is (1, 0). -/
def State.currentLap (s : State) (c : Car) : Nat :=
  if c.standing.isFinished then s.race.settings.laps else c.floorGate.lap

/-- The age of a stored pose at capture (R150). -/
def State.poseAge (s : State) (pose : Option Pose) : Nat :=
  match pose with
  | none => poseAgeAbsent
  | some q => min (s.tickCount - q.arrival) poseAgeLimit

/-- The twelve bytes shown for a pose: zero when it is absent (R150). -/
def shownPose (pose : Option Pose) : List Byte :=
  match pose with
  | none => List.replicate 12 0
  | some q => q.bytes

/-- The snapshot entry of a car at a position (R153). -/
def State.snapshotCar (s : State) (c : Car) (slot : Port) (position : Nat) : SnapshotCar :=
  { slot := slot
    state := c.standing.state
    position := position
    currentLap := s.currentLap c
    distance := c.distance
    status := c.status
    sticky := c.sticky
    carClass := c.carClass
    tag := c.tag
    poseAge := s.poseAge c.pose
    pose := shownPose c.pose }

/-- The capture of the whole race state (R151 to R153). -/
def State.capture (s : State) : Snapshot :=
  { raceNumber := s.race.number
    phase := s.race.phase
    held := s.race.holdSlot.isSome
    resultsReason := s.race.resultsReason
    time := s.shownTime
    cars := s.runningOrder.zipIdx.filterMap fun e =>
      (s.car e.1).map fun c => s.snapshotCar c e.1 (e.2 + 1) }

end Sys2Proof.Machine
end

