-- ==== Sys2Proof/Machine/Layouts.lean ====
section
/-! DEFINITION. The coded values and byte layouts of the frames the part sends (11), and the frame
envelope with its CHECK (R172, Table 11.1). -/
namespace Sys2Proof.Machine

/-! ### Coded values (Table 11.3) -/

def ResultCode.code : ResultCode → Nat
  | .ok => 0x00
  | .busy => 0x01
  | .noRace => 0x02
  | .raceExists => 0x03
  | .notOpener => 0x04
  | .notEntered => 0x05
  | .alreadyEntered => 0x06
  | .wrongPhase => 0x07
  | .locked => 0x08
  | .range => 0x09
  | .notReady => 0x0A
  | .courseMismatch => 0x0B
  | .outOfRace => 0x0C
  | .fenced => 0x0D
  | .unknownKind => 0x0E

def Phase.code : Phase → Nat
  | .idle => 0x00
  | .forming => 0x01
  | .grid => 0x02
  | .countdown => 0x03
  | .green => 0x04
  | .finishing => 0x05
  | .results => 0x06

def CarState.code : CarState → Nat
  | .empty => 0x00
  | .entered => 0x01
  | .ready => 0x02
  | .racing => 0x03
  | .coasting => 0x04
  | .finished => 0x05
  | .stopped => 0x06
  | .retired => 0x07

def Reason.code : Reason → Nat
  | .none => 0x00
  | .noCourse => 0x01
  | .noOpener => 0x02
  | .noStarters => 0x03
  | .allFinished => 0x04
  | .allRetired => 0x05
  | .closed => 0x06
  | .limit => 0x07
  | .aborted => 0x08
  | .released => 0x09
  | .holdExpired => 0x0A
  | .left => 0x0B
  | .silent => 0x0C
  | .readyMissed => 0x0D
  | .courseChanged => 0x0E
  | .fenced => 0x0F

def Presence.code : Presence → Nat
  | .absent => 0x00
  | .present => 0x01
  | .late => 0x02
  | .lost => 0x03

def ErrorKind.code : ErrorKind → Nat
  | .badCheck => 0x01
  | .badLength => 0x02
  | .unknownKind => 0x03
  | .badField => 0x04

def LeaveOutcome.code : LeaveOutcome → Nat
  | .withdrawn => 0x01
  | .retired => 0x02
  | .released => 0x03

def EntryIndication.code : EntryIndication → Nat
  | .entered => 0x01
  | .withdrawn => 0x02
  | .setupChanged => 0x03

/-! ### Fields (R183) -/

/-- A one-byte field. -/
def field1 (n : Nat) : List Byte := [BitVec.ofNat 8 n]

/-- A two-byte field, least significant byte first. -/
def field2 (n : Nat) : List Byte := field1 n ++ field1 (n / 256)

/-- A four-byte field, least significant byte first. -/
def field4 (n : Nat) : List Byte := field2 n ++ field2 (n / 65536)

/-- A time that may be absent: absence is 0xFFFFFFFF. -/
def optionalTime (t : Option Nat) : List Byte := field4 (t.getD 0xFFFFFFFF)

/-- A reason that may be absent: absence is 0x00. -/
def optionalReason (r : Option Reason) : List Byte :=
  match r with
  | none => field1 0
  | some x => field1 x.code

/-- The three characters of a tag. -/
def Tag.bytes (t : Tag) : List Byte := [t.first, t.second, t.third]

/-! ### Notices (Table 11.7) -/

/-- The first two bytes of a PHASE notice. -/
def PhaseReport.bytes : PhaseReport → List Byte
  | .changed phase reason => field1 phase.code ++ field1 reason.code
  | .held => field1 0x10 ++ field1 Reason.none.code
  | .resumed => field1 0x11 ++ field1 Reason.none.code
  | .opener port => field1 0x12 ++ field1 port.val

/-- The kind code and the payload of a notice (Table 11.2, Table 11.7). -/
def Notice.frame : Notice → Frame
  | .phase report raceNumber => ⟨0x40, report.bytes ++ field1 raceNumber⟩
  | .entry slot indication reason place =>
    ⟨0x41, field1 slot.val ++ field1 indication.code ++ field1 reason.code ++ field1 place⟩
  | .carState slot state reason => ⟨0x42, field1 slot.val ++ field1 state.code ++ field1 reason.code⟩
  | .gate crossed time lapTime =>
    ⟨0x43, field1 crossed.lap ++ field1 crossed.index ++ field4 time ++ optionalTime lapTime⟩
  | .position place => ⟨0x44, field1 place⟩
  | .leader slot => ⟨0x45, field1 slot.val⟩
  | .wrongWay isSet reverseRun => ⟨0x46, field1 isSet.toNat ++ field4 reverseRun⟩
  | .flag penalty => ⟨0x47, field1 0x01 ++ field2 penalty⟩
  | .finish slot index time => ⟨0x48, field1 slot.val ++ field1 index ++ field4 time⟩
  | .vote votes eligible => ⟨0x49, field1 votes ++ field1 eligible⟩
  | .error kind => ⟨0x4A, field1 kind.code⟩
  | .overflow => ⟨0x4B, []⟩

/-! ### Snapshots (Table 11.8) -/

/-- The 28 bytes of a car entry. -/
def SnapshotCar.bytes (c : SnapshotCar) : List Byte :=
  field1 c.slot.val ++ field1 c.state.code ++ field1 c.position ++ field1 c.currentLap ++
  field4 c.distance ++ field1 c.status.code ++ field1 c.sticky.code ++ field1 c.carClass ++
  c.tag.bytes ++ field2 c.poseAge ++ c.pose

/-- Snapshot content: the header of 8 bytes and the car entries. -/
def Snapshot.bytes (s : Snapshot) : List Byte :=
  field1 s.raceNumber ++ field1 s.phase.code ++ field1 (128 * s.held.toNat + s.cars.length) ++
  optionalReason s.resultsReason ++ field4 s.time ++ s.cars.flatMap SnapshotCar.bytes

/-- A pushed snapshot (R158). -/
def Snapshot.pushFrame (s : Snapshot) : Frame := ⟨0x60, s.bytes⟩

/-! ### Results table entries (Table 11.9) -/

/-- The 28 bytes of a results table entry. -/
def ResultEntry.bytes (e : ResultEntry) : List Byte :=
  field1 e.position ++ field1 e.slot.val ++ field1 e.state.code ++ field1 e.lapsCompleted ++
  field4 e.distance ++ optionalTime e.finishTime ++ field2 e.penalty ++ optionalTime e.totalTime ++
  optionalTime e.bestLap ++ optionalReason e.retireReason ++ field1 0 ++ optionalTime e.retireTime

/-! ### Responses (R177, Table 11.6) -/

/-- The nine settings in the order of Table 2.3. -/
def Settings.values (s : Settings) : List Nat :=
  [s.laps, s.countdownLength, s.entryWindow, s.gridWait, s.closingWindow, s.raceLimit,
   s.jumpStartPenalty, s.wrongWayThreshold, s.resultsHold]

/-- The content of a REPORT_ACK. -/
def ReportAck.bytes (a : ReportAck) : List Byte :=
  field1 a.state.code ++ field1 a.currentLap ++ field1 a.position ++ field1 a.status.code ++
  field1 a.sticky.code ++ field2 a.penalty ++ field4 a.distance ++ field4 a.distanceChange ++
  field4 a.time

/-- The content of the response to CLEAR_ERRORS. -/
def errorRecordBytes (record : Option ErrorRecord) (wasFenced : Bool) : List Byte :=
  match record with
  | none => field1 0 ++ field1 0 ++ field1 0 ++ field1 0 ++ field1 wasFenced.toNat ++ optionalTime none
  | some r =>
    field1 1 ++ field1 r.firstKind.code ++ [r.requestKind.getD 0] ++ field1 r.multiple.toNat ++
    field1 wasFenced.toNat ++ field4 r.captureTime

/-- The kind of the response to a request: the request's kind plus 0x80 (R177). -/
def RequestKind.responseCode (k : RequestKind) : Byte := k.code + 0x80

/-- An OK response to a request: the result code, then the content. -/
def okFrame (k : RequestKind) (content : List Byte) : Frame :=
  ⟨k.responseCode, field1 ResultCode.ok.code ++ content⟩

/-- The kind code and the payload of a response (Table 11.6). A LEAVE is answered with the outcome alone:
R56 speaks of a phase that its response shows, and Table 11.6 gives it no field for one (log 18). -/
def Response.frame : Response → Frame
  | .bare request code => ⟨request.responseCode, field1 code.code⟩
  | .unknownFrame kind code => ⟨0x80, field1 code.code ++ [kind]⟩
  | .openRace raceNumber => okFrame .openRace (field1 raceNumber)
  | .setRules settings => okFrame .setRules (settings.values.flatMap field4)
  | .loadCourse checkValue => okFrame .loadCourse (field4 checkValue.toNat)
  | .enter raceNumber position => okFrame .enter (field1 raceNumber ++ field1 position)
  | .carSetup carClass tag rateLimit =>
    okFrame .carSetup (field1 carClass ++ tag.bytes ++ field2 rateLimit)
  | .closeEntries cars => okFrame .closeEntries (field1 cars)
  | .ready readyCars cars => okFrame .ready (field1 readyCars ++ field1 cars)
  | .leave outcome => okFrame .leave (field1 outcome.code)
  | .report ack => okFrame .report ack.bytes
  | .clearFlags sticky => okFrame .clearFlags (field1 sticky.code)
  | .snapshot content => okFrame .snapshot content.bytes
  | .readLaps slot total first times =>
    okFrame .readLaps (field1 slot.val ++ field1 total ++ field1 first ++ field1 times.length ++
      times.flatMap field4)
  | .readResults table =>
    okFrame .readResults (field1 table.reason.code ++ field1 table.entries.length ++ field1 0 ++
      table.entries.flatMap ResultEntry.bytes)
  | .abortVote votes eligible phase =>
    okFrame .abortVote (field1 votes ++ field1 eligible ++ field1 phase.code)
  | .withdrawVote votes eligible => okFrame .withdrawVote (field1 votes ++ field1 eligible)
  | .identify port raceNumber phase car presence recordHeld =>
    okFrame .identify (field2 Config.partCode ++ field1 Config.revision ++ field1 port.val ++
      field1 raceNumber ++ field1 phase.code ++ field1 car.code ++ field1 presence.code ++
      field1 recordHeld.toNat)
  | .setPush interval => okFrame .setPush (field2 interval)
  | .clearErrors record wasFenced => okFrame .clearErrors (errorRecordBytes record wasFenced)

/-! ### The envelope (R172, Table 11.1) -/

/-- One step of the 16-bit register of R172. -/
def frameCheckStep (r : BitVec 16) : BitVec 16 :=
  if r.getLsbD 15 then (r <<< 1) ^^^ 0x1021#16 else r <<< 1

/-- One byte taken into the register: combined into its eight highest-order bits, then eight steps. -/
def frameCheckByte (r : BitVec 16) (b : Byte) : BitVec 16 :=
  Nat.repeat frameCheckStep 8 (r ^^^ (b.setWidth 16 <<< 8))

/-- The check of a byte string (R172); a frame's is over LEN, KIND and the payload. -/
def frameCheck (bytes : List Byte) : BitVec 16 := bytes.foldl frameCheckByte 0xFFFF#16

/-- The two CHECK bytes, the high-order byte first. -/
def checkBytes (c : BitVec 16) : List Byte := [(c >>> 8).setWidth 8, c.setWidth 8]

/-- LEN, KIND and payload of a frame: the bytes its CHECK covers. -/
def Frame.body (f : Frame) : List Byte := BitVec.ofNat 8 f.payload.length :: f.kind :: f.payload

/-- The bytes of a frame on the line (Table 11.1). -/
def Frame.bytes (f : Frame) : List Byte := syncByte :: f.body ++ checkBytes (frameCheck f.body)

end Sys2Proof.Machine
end

