-- ==== Sys2Proof/Machine/Reception.lean ====
section
/-! DEFINITION. The receiver of a cabinet port (R172, R173): from the bytes on the receive pair to the
commands that its candidate frames amount to. -/
namespace Sys2Proof.Machine

/-- What the search makes of the bytes from the first one still to be searched. -/
inductive Candidate where
  /-- No candidate can be judged yet. -/
  | incomplete
  /-- The first byte is not SYNC and is passed over. -/
  | passed
  /-- A LEN above 240. -/
  | badLength
  /-- A complete candidate with an incorrect check, and its length in bytes. -/
  | badCheck (length : Nat)
  /-- A complete candidate with a correct check. -/
  | valid (kind : Byte) (payload : List Byte) (length : Nat)
  deriving DecidableEq, Repr

/-- The candidate that starts at the first byte (R172). -/
def candidate : List Byte → Candidate
  | [] => .incomplete
  | first :: rest =>
    if first ≠ syncByte then .passed
    else match rest with
      | [] => .incomplete
      | len :: more =>
        if maxPayload < len.toNat then .badLength
        else if more.length < len.toNat + 3 then .incomplete
        else
          let body := len :: more.take (len.toNat + 1)
          if (more.drop (len.toNat + 1)).take 2 = checkBytes (frameCheck body) then
            .valid (more.headD 0) ((more.drop 1).take len.toNat) (len.toNat + 5)
          else .badCheck (len.toNat + 5)

/-- The search after a failed candidate of a given length resumes at the byte after its SYNC byte, and
its bytes belong to the discarded bytes (R173). -/
def Receiver.resume (r : Receiver) (length : Nat) : Receiver :=
  ⟨r.bytes.tail, max r.discarded length - 1⟩

/-- The command of a failed candidate: resynchronising when its SYNC byte lies among discarded bytes
(R173), ordinary otherwise. -/
def Receiver.failure (r : Receiver) (p : Port) (ordinary : Instr) : Instr :=
  if r.discarded = 0 then ordinary else .resynchronisingCandidateDiscard p

/-- The search (R172, R173): candidates are judged one after another until one is incomplete. Each turn
removes at least one byte, so as many turns as there are bytes suffice. -/
def search (p : Port) : Nat → Receiver → Receiver × List Instr
  | 0, r => (r, [])
  | turns + 1, r =>
    match candidate r.bytes with
    | .incomplete => (r, [])
    | .passed => search p turns ⟨r.bytes.tail, r.discarded - 1⟩
    | .badLength =>
      let found := search p turns (r.resume 2)
      (found.1, r.failure p (.badLengthFrame p) :: found.2)
    | .badCheck length =>
      let found := search p turns (r.resume length)
      (found.1, r.failure p (.badCheckFrame p) :: found.2)
    | .valid kind payload length =>
      let found := search p turns ⟨r.bytes.drop length, r.discarded - length⟩
      (found.1, .validFrame p kind payload :: found.2)

/-- One more byte arrives at a receiver. -/
def Receiver.take (p : Port) (r : Receiver) (b : Byte) : Receiver × List Instr :=
  search p (r.bytes.length + 1) ⟨r.bytes ++ [b], r.discarded⟩

/-- One byte arrives on the receive pair of port `p`: the receiver runs, and the commands of the
candidates it judged are queued. -/
def State.receiveByte (s : State) (p : Port) (b : Byte) : State :=
  let taken := (s.port p).receiver.take p b
  { s.modifyPort p (fun c => { c with receiver := taken.1 }) with pending := s.pending ++ taken.2 }

/-- Bytes arrive on the receive pair of port `p`, one after another. -/
def State.receiveBytes (s : State) (p : Port) (bytes : List Byte) : State :=
  bytes.foldl (fun s b => s.receiveByte p b) s

end Sys2Proof.Machine
end

