-- ==== Sys2Proof/Machine/LinkEvents.lean ====
section
/-! DEFINITION. The events of a cabinet link: frames received, loss of signal, the transmitter, and
hardware reset (10). -/
namespace Sys2Proof.Machine

/-! ### VALID_FRAME (R174, R175) -/

/-- The entry that a frame makes in the request queue, with the tick count of its arrival (R148). -/
def queuedFrame (kind : Byte) (payload : List Byte) (arrival : Nat) : Queued :=
  match RequestKind.ofCode kind with
  | some k => .request ⟨k, payload, arrival⟩
  | none => .unknown kind arrival

/-- The BUSY answer to a frame that finds the request queue full (R175, R177). -/
def busyAnswer (kind : Byte) : Response :=
  match RequestKind.ofCode kind with
  | some k => .bare k .busy
  | none => .unknownFrame kind .busy

/-- A frame is queued, or answered BUSY, or discarded where no answer fits (R175). -/
def PortState.accept (kind : Byte) (payload : List Byte) (arrival : Nat) (c : PortState) : PortState :=
  if c.requestQueue.length < requestCapacity then
    { c with requestQueue := c.requestQueue ++ [queuedFrame kind payload arrival] }
  else if c.responseQueue.length < responseCapacity then c.respond (busyAnswer kind)
  else c

/-- Steps 1 and 2 of R174: the link's valid-frame change and the presence event. -/
def State.frameArrives (p : Port) (s : State) : State :=
  (s.modifyPort p fun c => { c with link := .up, badChecks := 0 }).validFramePresence p

/-- Step 3 of R174: the frame is sorted by its kind and its length. -/
def State.sortFrame (p : Port) (kind : Byte) (payload : List Byte) (s : State) : State :=
  match RequestKind.ofCode kind with
  | some k =>
    if k.lengthAllowed payload then s.modifyPort p (PortState.accept kind payload s.tickCount)
    else s.majorError p .badLength (some kind)
  | none =>
    (s.modifyPort p (PortState.accept kind payload s.tickCount)).majorError p .unknownKind (some kind)

/-- A frame with a correct check (R174). What reached an empty queue and is the port's own to answer is
answered in the same event (R176). -/
def State.validFrame (p : Port) (kind : Byte) (payload : List Byte) (s : State) : State :=
  let arrived := s.frameArrives p
  let sorted := arrived.sortFrame p kind payload
  if (arrived.port p).requestQueue = [] then sorted.answerHead p else sorted

/-- A LEN above 240 (R172): reported while the link is UP, without a request kind. -/
def State.badLengthFrame (p : Port) (s : State) : State :=
  match (s.port p).link with
  | .up => s.majorError p .badLength none
  | .down => s

/-- A frame is received. More than 240 payload bytes are a LEN above 240. -/
def execValidFrame (p : Port) (kind : Byte) (payload : List Byte) (s : State) :
    Host.Outcome State Fault Refusal :=
  .next (if payload.length ≤ maxPayload then s.validFrame p kind payload else s.badLengthFrame p)

/-! ### Discarded candidates (R171 to R173) -/

/-- A candidate with an incorrect check: reported and counted while the link is UP, and the eighth in a
row takes the link DOWN (R171). -/
def State.badCheckFrame (p : Port) (s : State) : State :=
  match (s.port p).link with
  | .down => s
  | .up =>
    let counted := s.modifyPort p fun c => { c with badChecks := c.badChecks + 1 }
    let reported := counted.majorError p .badCheck none
    if badCheckLimit ≤ (s.port p).badChecks + 1 then reported.linkDown p else reported

/-- A candidate with an incorrect check. -/
def execBadCheckFrame (p : Port) (s : State) : Host.Outcome State Fault Refusal :=
  .next (s.badCheckFrame p)

/-- A candidate with a LEN above 240. -/
def execBadLengthFrame (p : Port) (s : State) : Host.Outcome State Fault Refusal :=
  .next (s.badLengthFrame p)

/-- A resynchronising candidate that fails is discarded without report and without count (R173). -/
def execResynchronisingCandidateDiscard (_p : Port) (s : State) : Host.Outcome State Fault Refusal :=
  .next s

/-! ### LOSS_OF_SIGNAL (R171, R173, R179) -/

/-- A receive pair has been undriven for 20 ms: the candidate being received is discarded, and an UP
link goes DOWN. -/
def State.lossOfSignal (p : Port) (s : State) : State :=
  match (s.port p).link with
  | .up => s.linkDown p
  | .down => s.modifyPort p fun c => { c with receiver := ⟨[], 0⟩ }

/-- Loss of signal. -/
def execLossOfSignal (p : Port) (s : State) : Host.Outcome State Fault Refusal :=
  .next (s.lossOfSignal p)

/-! ### TRANSMIT_TAKE (R178, R163) -/

/-- The head notice is taken; an overflow condition places its OVERFLOW notice in the freed entry (R163). -/
def PortState.takeNotice (rest : List Notice) (c : PortState) : PortState :=
  if c.overflow then { c with noticeQueue := rest ++ [.overflow], overflow := false }
  else { c with noticeQueue := rest }

/-- A frame boundary: the frame being sent has ended, and the next is taken by the precedence of R178. -/
def PortState.transmitTake (c : PortState) : PortState :=
  match c.link with
  | .down => c
  | .up =>
    match c.responseQueue with
    | r :: rest => { c with responseQueue := rest, sending := some r.frame }
    | [] =>
      match c.noticeQueue with
      | n :: rest => { c.takeNotice rest with sending := some n.frame }
      | [] =>
        match c.pushSlot with
        | some snapshot => { c with pushSlot := none, sending := some snapshot.pushFrame }
        | none => { c with sending := none }

/-- The transmitter of port `p` is at a frame boundary. -/
def execTransmitTake (p : Port) (s : State) : Host.Outcome State Fault Refusal :=
  .next (s.modifyPort p PortState.transmitTake)

/-! ### HARDWARE_RESET (R182) -/

/-- Every block starts from its reset values. The commands that wait are the outside's and stay. -/
def execHardwareReset (s : State) : Host.Outcome State Fault Refusal :=
  .next { State.reset with pending := s.pending }

end Sys2Proof.Machine
end

