-- ==== Sys2Proof/Machine/Starting.lean ====
section
/-! DEFINITION. READY and LEAVE (03 sections 3.5 and 3.6). -/
namespace Sys2Proof.Machine

/-! ### READY (R50) -/

/-- The car of port `p` becomes READY, and the all-READY test follows. -/
def State.declareReady (p : Port) (s : State) : State :=
  let s' := (s.modifyCar p fun c => { c with standing := .ready }).notifyRace (.carState p .ready .none)
  if s'.allReady then s'.enterCountdown else s'

/-- READY. -/
def performReady (p : Port) (_r : Request) (s : State) : State × Response :=
  if (s.port p).fenced then refuse .ready .fenced s
  else if s.race.phase = .idle then refuse .ready .noRace s
  else
    match s.car p with
    | none => refuse .ready .notEntered s
    | some c =>
      if s.race.phase ≠ .grid then refuse .ready .wrongPhase s
      else if c.standing = .ready then refuse .ready .alreadyEntered s
      else
        let s' := s.declareReady p
        (s', .ready (s'.countCars fun x => x = .ready) s'.carCount)

/-- A grant of READY to port `p`. -/
def execReady (p : Port) (s : State) : Host.Outcome State Fault Refusal :=
  .next (s.grant p .ready (performReady p))

/-! ### LEAVE (R51 to R56) -/

/-- Whether a standing is RETIRED. -/
def Standing.isRetired : Standing → Bool
  | .retired _ _ => true
  | .entered | .ready | .racing | .coasting | .finished _ | .stopped => false

/-- LEAVE: withdrawal before the green, retirement in the race, release in RESULTS. -/
def performLeave (p : Port) (_r : Request) (s : State) : State × Response :=
  if (s.port p).fenced then refuse .leave .fenced s
  else
    match s.race.phase with
    | .idle => refuse .leave .noRace s
    | .forming | .grid | .countdown =>
      if s.isRacePort p then (s.withdrawAndTest p .left, .leave .withdrawn)
      else refuse .leave .notEntered s
    | .green | .finishing =>
      match s.car p with
      | none => refuse .leave .notEntered s
      | some c =>
        if c.standing.isFinished || c.standing.isRetired then refuse .leave .outOfRace s
        else (s.retire p .left, .leave .retired)
    | .results =>
      if s.isRacePort p then (s.release p, .leave .released) else refuse .leave .notEntered s

/-- A grant of LEAVE to port `p`. -/
def execLeave (p : Port) (s : State) : Host.Outcome State Fault Refusal :=
  .next (s.grant p .leave (performLeave p))

end Sys2Proof.Machine
end

