-- ==== Sys2Proof/Machine/Reports.lean ====
section
/-! DEFINITION. REPORT and CLEAR_FLAGS (04). -/
namespace Sys2Proof.Machine

/-! ### Poses and the countdown (R148, R67) -/

/-- The pose that a REPORT carries, if any, replaces the stored one (R148). -/
def State.storePose (p : Port) (r : Request) (s : State) : State :=
  match reportPose r.payload with
  | none => s
  | some bytes => s.modifyCar p fun c => { c with pose := some ⟨bytes, r.arrival⟩ }

/-- The penalty of a car after a jump start (R67, R68). -/
def jumpPenalty (setting penalty : Nat) : Nat := if penalty = 0 then setting else penalty

/-- A jump start: JUMP_START is set, with a FLAG notice if it was clear, and the penalty is applied
once (R67). -/
def State.jumpStart (p : Port) (s : State) : State :=
  match s.car p with
  | none => s
  | some c =>
    let penalty := jumpPenalty s.race.settings.jumpStartPenalty c.penalty
    let s' := s.modifyCar p fun x =>
      { x with sticky := { x.sticky with jumpStart := true }, penalty := penalty }
    if c.sticky.jumpStart then s' else s'.notifyOwn p (.flag penalty)

/-- A REPORT for a READY car in COUNTDOWN (R67). -/
def State.countdownReport (p : Port) (r : Request) (s : State) : State :=
  (if 0 < reportDelta r.payload then s.jumpStart p else s).storePose p r

/-! ### Steps 1 and 2: time and rate allowance (R71, R72) -/

/-- Time since the car's last applied report, at least 1 (R71). -/
def Car.elapsed (now : Nat) (c : Car) : Nat := max 1 (now - c.lastReport)

/-- The largest distance that a report at `now` may credit (R72). -/
def Car.allowance (now : Nat) (c : Car) : Nat := c.rateLimit * c.elapsed now

/-- A delta held to an allowance, keeping its sign (R72). -/
def limitDelta (allowance : Nat) (delta : Int) : Int :=
  if allowance < delta.natAbs then (if delta < 0 then -(allowance : Int) else allowance) else delta

/-- RATE_LIMITED says whether the delta was cut; RATE_SEEN is set when it was (R72). -/
def Car.markRate (cut : Bool) (c : Car) : Car :=
  { c with status := { c.status with rateLimited := cut }
           sticky := { c.sticky with rateSeen := c.sticky.rateSeen || cut } }

/-! ### Step 3: movement (R73 to R76) -/

/-- A reverse movement, held at the floor (R73). -/
def Car.reverse (floor : Nat) (delta : Int) (c : Car) : Car :=
  let held : Bool := decide ((c.distance : Int) + delta < (floor : Int))
  { c with
    reverseRun := min reverseRunLimit (c.reverseRun + delta.natAbs)
    distance := if held then floor else ((c.distance : Int) + delta).toNat
    status := { c.status with reversing := true, atFloor := held }
    sticky := { c.sticky with floorSeen := c.sticky.floorSeen || held } }

/-- WRONG_WAY and WRONG_WAY_SEEN are set (R74). -/
def Car.markWrongWay (c : Car) : Car :=
  { c with status := { c.status with wrongWay := true }
           sticky := { c.sticky with wrongWaySeen := true } }

/-- A forward movement, capped at the finish distance (R75). -/
def Car.forward (finish : Nat) (delta : Int) (c : Car) : Car :=
  { c with
    reverseRun := 0
    distance := min (c.distance + delta.toNat) finish
    status := { c.status with reversing := false, atFloor := false, wrongWay := false } }

/-- A report without movement (R76). -/
def Car.stand (c : Car) : Car :=
  { c with status := { c.status with reversing := false, rateLimited := false, atFloor := false } }

/-- Reverse travel with the wrong-way test (R73, R74). -/
def State.travelBack (p : Port) (course : Course) (delta : Int) (s : State) : State :=
  match s.car p with
  | none => s
  | some c =>
    let c' := c.reverse (course.position c.floorGate) delta
    let moved := s.modifyCar p fun _ => c'
    if s.race.settings.wrongWayThreshold ≤ c'.reverseRun ∧ c'.status.wrongWay = false then
      (moved.modifyCar p Car.markWrongWay).notifyOwn p (.wrongWay true c'.reverseRun)
    else moved

/-- Forward travel; a wrong-way condition ends with a notice of the reverse run it had (R75). -/
def State.travelForward (p : Port) (course : Course) (delta : Int) (s : State) : State :=
  match s.car p with
  | none => s
  | some c =>
    let moved := s.modifyCar p (Car.forward (course.finish s.race.settings.laps) delta)
    if c.status.wrongWay then moved.notifyOwn p (.wrongWay false c.reverseRun) else moved

/-! ### Step 4: gates and laps (R78 to R81) -/

/-- A lap is completed at a LINE (R79). -/
def Car.completeLap (now : Nat) (c : Car) : Car :=
  { c with laps := c.laps ++ [now - c.lastLine], lastLine := now }

/-- The car of port `p` finishes: FINISHED, in the finish list, with its FINISH notice (R81). -/
def State.finishCar (p : Port) (now : Nat) (s : State) : State :=
  let s' : State :=
    { s.modifyCar p (fun c => { c with standing := .finished now }) with
      finishList := s.finishList ++ [⟨p, now⟩] }
  s'.notifyRace (.finish p s'.finishList.length now)

/-- One crossing (R78): the floor advances, a LINE completes a lap, a LINE or SECTOR raises its GATE
notice, the LINE at F (gate 0 of lap laps + 1, R9) finishes the car, and the next gate follows along the
chain. -/
def State.crossGate (p : Port) (now : Nat) (course : Course) (c : Car) (g : Gate) (s : State) : State :=
  let laps := s.race.settings.laps
  let floored := s.modifyCar p fun x => { x with floorGate := g, nextGate := course.next laps g }
  match course.gateKind g.index with
  | .plain => floored
  | .sector => floored.notifyOwn p (.gate g now none)
  | .line =>
    let lapped := (floored.modifyCar p (Car.completeLap now)).notifyOwn p
      (.gate g now (some (now - c.lastLine)))
    if g = ⟨laps + 1, 0⟩ then lapped.finishCar p now else lapped

/-- Crossings in chain order while the next gate lies at or below D (R78). Each one moves along the
chain, so as many turns as the chain has gates suffice. -/
def State.crossGates (p : Port) (now : Nat) (course : Course) : Nat → State → State
  | 0, s => s
  | turns + 1, s =>
    match s.car p with
    | none => s
    | some c =>
      match c.nextGate with
      | none => s
      | some g =>
        if course.position g ≤ c.distance then
          (s.crossGate p now course c g).crossGates p now course turns
        else s

/-! ### Steps 5 to 7 (R82 to R84) -/

/-- Step 5: the report and change times, and the move in the running order (R82). A car that finishes has
changed its D, since D reaches F by that report alone (R77, R81). -/
def State.bookReport (p : Port) (now before : Nat) (order : List Port) (s : State) : State :=
  let booked := s.modifyCar p fun c =>
    { c with lastReport := now, distanceChange := if c.distance = before then c.distanceChange else now }
  match s.car p with
  | none => booked
  | some c =>
    if c.standing.isFinished then (booked.finishMove p).notifyMove order
    else if c.distance = before then booked
    else (booked.reinsert p).notifyMove order

/-- Steps 2 to 4 of the full application: the rate allowance, the movement and the crossings. -/
def State.applyDelta (p : Port) (c : Car) (course : Course) (now : Nat) (carried : Int)
    (s : State) : State :=
  let allowance := c.allowance now
  let delta := limitDelta allowance carried
  let rated := s.modifyCar p (Car.markRate (decide (allowance < carried.natAbs)))
  if delta < 0 then rated.travelBack p course delta
  else if 0 < delta then
    (rated.travelForward p course delta).crossGates p now course
      (course.chainLength s.race.settings.laps)
  else rated.modifyCar p Car.stand

/-- The full application of a REPORT for a RACING car (section 4.4). -/
def State.fullApplication (p : Port) (r : Request) (s : State) : State :=
  match s.car p, s.course with
  | some c, some course =>
    let now := s.raceClock
    let applied := s.applyDelta p c course now (reportDelta r.payload)
    let stored := (applied.bookReport p now c.distance s.runningOrder).storePose p r
    if stored.carState p = .finished then stored.endTests true else stored
  | _, _ => s

/-! ### REPORT (R66 to R70, R85) -/

/-- The REPORT_ACK of port `p` as the state stands (R85, Table 4.5). -/
def State.reportAck (s : State) (p : Port) : ReportAck :=
  match s.car p with
  | none => ⟨.empty, 0, 0, .clear, .clear, 0, 0, 0, s.shownTime⟩
  | some c =>
    { state := c.standing.state
      currentLap := s.currentLap c
      position := s.position p
      status := c.status
      sticky := c.sticky
      penalty := c.penalty
      distance := c.distance
      distanceChange := c.distanceChange
      time := s.shownTime }

/-- What an accepted REPORT does, by phase and car state (Table 4.3). -/
def State.applyReport (p : Port) (r : Request) (s : State) : State :=
  match s.race.phase, s.carState p with
  | .countdown, .ready => s.countdownReport p r
  | .green, .racing | .finishing, .racing => s.fullApplication p r
  | .green, .finished | .finishing, .finished => s.storePose p r
  | _, _ => s

/-- REPORT (R66). -/
def performReport (p : Port) (r : Request) (s : State) : State × Response :=
  if (s.port p).fenced then refuse .report .fenced s
  else if s.race.phase = .idle then refuse .report .noRace s
  else
    match s.car p with
    | none => refuse .report .notEntered s
    | some c =>
      if s.race.phase = .forming ∨ s.race.phase = .grid ∨ s.race.phase = .results then
        refuse .report .wrongPhase s
      else if c.standing.isRetired then refuse .report .outOfRace s
      else
        let s' := s.applyReport p r
        (s', .report (s'.reportAck p))

/-- A grant of REPORT to port `p`. -/
def execReport (p : Port) (s : State) : Host.Outcome State Fault Refusal :=
  .next (s.grant p .report (performReport p))

/-! ### CLEAR_FLAGS (R88, R89) -/

/-- CLEAR_FLAGS. -/
def performClearFlags (p : Port) (r : Request) (s : State) : State × Response :=
  if (s.port p).fenced then refuse .clearFlags .fenced s
  else if s.race.phase = .idle then refuse .clearFlags .noRace s
  else
    match s.car p with
    | none => refuse .clearFlags .notEntered s
    | some c =>
      if s.race.phase = .forming ∨ s.race.phase = .grid ∨ s.race.phase = .results then
        refuse .clearFlags .wrongPhase s
      else
        let sticky := c.sticky.clearMasked (byteAt r.payload 0)
        (s.modifyCar p fun x => { x with sticky := sticky }, .clearFlags sticky)

/-- A grant of CLEAR_FLAGS to port `p`. -/
def execClearFlags (p : Port) (s : State) : Host.Outcome State Fault Refusal :=
  .next (s.grant p .clearFlags (performClearFlags p))

end Sys2Proof.Machine
end

