-- ==== Sys2Proof/Machine/Reading.lean ====
section
/-! DEFINITION. SNAPSHOT, READ_LAPS and READ_RESULTS: the requests that read and change nothing
(05 section 5.5, 08 section 8.2). -/
namespace Sys2Proof.Machine

/-- SNAPSHOT (R151). -/
def performSnapshot (p : Port) (_r : Request) (s : State) : State × Response :=
  if (s.port p).fenced then refuse .snapshot .fenced s else (s, .snapshot s.capture)

/-- A grant of SNAPSHOT to port `p`. -/
def execSnapshot (p : Port) (s : State) : Host.Outcome State Fault Refusal :=
  .next (s.grant p .snapshot (performSnapshot p))

/-- The car in a slot number that a request carries; none for a number above 7 or an EMPTY record. -/
def State.carNumbered (s : State) (slot : Nat) : Option (Port × Car) :=
  if h : slot < 8 then (s.car ⟨slot, h⟩).map fun c => (⟨slot, h⟩, c) else none

/-- READ_LAPS (R110, R111). -/
def performReadLaps (p : Port) (r : Request) (s : State) : State × Response :=
  if (s.port p).fenced then refuse .readLaps .fenced s
  else if s.race.phase = .idle then refuse .readLaps .noRace s
  else if !s.race.phase.afterGreen then refuse .readLaps .wrongPhase s
  else
    match s.carNumbered (byteAt r.payload 0) with
    | none => refuse .readLaps .range s
    | some (slot, c) =>
      if c.laps.length < byteAt r.payload 1 then refuse .readLaps .range s
      else
        (s, .readLaps slot c.laps.length (byteAt r.payload 1)
          ((c.laps.drop (byteAt r.payload 1)).take lapsPerRead))

/-- A grant of READ_LAPS to port `p`. -/
def execReadLaps (p : Port) (s : State) : Host.Outcome State Fault Refusal :=
  .next (s.grant p .readLaps (performReadLaps p))

/-- READ_RESULTS (R109). RESULTS always has a results table (R105). -/
def performReadResults (p : Port) (_r : Request) (s : State) : State × Response :=
  if (s.port p).fenced then refuse .readResults .fenced s
  else if s.race.phase = .idle then refuse .readResults .noRace s
  else
    match s.race.phase, s.resultsTable with
    | .results, some table => (s, .readResults table)
    | _, _ => refuse .readResults .wrongPhase s

/-- A grant of READ_RESULTS to port `p`. -/
def execReadResults (p : Port) (s : State) : Host.Outcome State Fault Refusal :=
  .next (s.grant p .readResults (performReadResults p))

end Sys2Proof.Machine
end

