-- ==== Sys2Proof/Machine/Votes.lean ====
section
/-! DEFINITION. ABORT_VOTE, WITHDRAW_VOTE and the expiry of a vote (06 section 6.2). -/
namespace Sys2Proof.Machine

/-! ### ABORT_VOTE (R122, R123) -/

/-- The vote of port `p` is cast or renewed at the race clock; a new vote raises a VOTE notice. -/
def State.castVote (p : Port) (s : State) : State :=
  let cast := s.modifyRace fun r => { r with votes := r.votes.set p (some s.raceClock) }
  if (s.race.votes.get p).isSome then cast else cast.notifyVotes

/-- ABORT_VOTE. The counts of the response are those of the threshold test. -/
def performAbortVote (p : Port) (_r : Request) (s : State) : State × Response :=
  if (s.port p).fenced then refuse .abortVote .fenced s
  else if s.race.phase = .idle then refuse .abortVote .noRace s
  else
    match s.car p with
    | none => refuse .abortVote .notEntered s
    | some c =>
      if !s.race.phase.running then refuse .abortVote .wrongPhase s
      else if c.standing.isRetired then refuse .abortVote .outOfRace s
      else
        let cast := s.castVote p
        let s' := if cast.thresholdMet then cast.enterResults .aborted else cast
        (s', .abortVote cast.voteCount cast.eligibleCount s'.race.phase)

/-- A grant of ABORT_VOTE to port `p`. -/
def execAbortVote (p : Port) (s : State) : Host.Outcome State Fault Refusal :=
  .next (s.grant p .abortVote (performAbortVote p))

/-! ### WITHDRAW_VOTE (R124) -/

/-- The vote of port `p`, if it holds one, is removed with a VOTE notice. -/
def State.removeVote (p : Port) (s : State) : State :=
  if (s.race.votes.get p).isSome then (s.dropVote p).notifyVotes else s

/-- WITHDRAW_VOTE. -/
def performWithdrawVote (p : Port) (_r : Request) (s : State) : State × Response :=
  if (s.port p).fenced then refuse .withdrawVote .fenced s
  else if s.race.phase = .idle then refuse .withdrawVote .noRace s
  else if !s.isRacePort p then refuse .withdrawVote .notEntered s
  else if !s.race.phase.running then refuse .withdrawVote .wrongPhase s
  else
    let s' := s.removeVote p
    (s', .withdrawVote s'.voteCount s'.eligibleCount)

/-- A grant of WITHDRAW_VOTE to port `p`. -/
def execWithdrawVote (p : Port) (s : State) : Host.Outcome State Fault Refusal :=
  .next (s.grant p .withdrawVote (performWithdrawVote p))

end Sys2Proof.Machine
end

