-- ==== Sys2Proof/Machine/Timers.lean ====
section
/-! DEFINITION. The timer expiries, the race limit and the tick (R17, R31, R147). An expiry is due when
its timer has no tick left; it is taken by its own command, and at the latest by the next tick. -/
namespace Sys2Proof.Machine

/-! ### Expiries of the Race Control Unit -/

/-- Expiry of the entry window. -/
def execEntryWindowExpiry (s : State) : Host.Outcome State Fault Refusal := .next s.entryWindowExpiry

/-- The cars that are ENTERED, in ascending slot order. -/
def State.enteredPorts (s : State) : List Port :=
  allPorts.filter fun p => decide (s.carState p = .entered)

/-- Expiry of the grid wait (R28). -/
def State.gridWaitExpiry (s : State) : State :=
  if s.race.phase = .grid ∧ s.race.gridWait = some 0 then
    let left := s.withdrawEach s.enteredPorts .readyMissed
    if left.carCount = 0 then left.returnToIdle .noStarters else left.enterCountdown
  else s

/-- Expiry of the grid wait. -/
def execGridWaitExpiry (s : State) : Host.Outcome State Fault Refusal := .next s.gridWaitExpiry

/-- Expiry of the countdown, which a hold stops (R30). -/
def State.countdownExpiry (s : State) : State :=
  if s.race.phase = .countdown ∧ s.race.countdown = some 0 ∧ s.race.holdSlot = none then s.enterGreen
  else s

/-- Expiry of the countdown. -/
def execCountdownExpiry (s : State) : Host.Outcome State Fault Refusal := .next s.countdownExpiry

/-- Expiry of the closing window (R33). -/
def State.closingWindowExpiry (s : State) : State :=
  if s.race.phase = .finishing ∧ s.race.closingWindow = some 0 then s.enterResults .closed else s

/-- Expiry of the closing window. -/
def execClosingWindowExpiry (s : State) : Host.Outcome State Fault Refusal :=
  .next s.closingWindowExpiry

/-- Expiry of the results hold (R38). -/
def State.resultsHoldExpiry (s : State) : State :=
  if s.race.phase = .results ∧ s.race.resultsHold = some 0 then s.returnToIdle .holdExpired else s

/-- Expiry of the results hold. -/
def execResultsHoldExpiry (s : State) : Host.Outcome State Fault Refusal := .next s.resultsHoldExpiry

/-- The vote of port `p` has reached the end of its life on the race clock (R125). -/
def State.voteDue (s : State) (p : Port) : Bool :=
  s.race.phase.running &&
    match s.race.votes.get p with
    | some castTime => decide (castTime + voteLife ≤ s.raceClock)
    | none => false

/-- Expiry of the vote of port `p` (R125). -/
def State.voteExpiry (p : Port) (s : State) : State :=
  if s.voteDue p then (s.dropVote p).notifyVotes else s

/-- Expiry of a vote. -/
def execVoteExpiry (p : Port) (s : State) : Host.Outcome State Fault Refusal := .next (s.voteExpiry p)

/-! ### Expiries of a port -/

/-- Expiry of the first stage of the silence timer of port `p` (R132). -/
def State.silenceFirstStageExpiry (p : Port) (s : State) : State :=
  if (s.port p).silence = .first 0 then s.goLate p .silent else s

/-- Expiry of the first stage of a silence timer. -/
def execSilenceFirstStageExpiry (p : Port) (s : State) : Host.Outcome State Fault Refusal :=
  .next (s.silenceFirstStageExpiry p)

/-- Expiry of the second stage of the silence timer of port `p` (R134). -/
def State.silenceSecondStageExpiry (p : Port) (s : State) : State :=
  if (s.port p).silence = .second 0 then s.becomeLost p else s

/-- Expiry of the second stage of a silence timer. -/
def execSilenceSecondStageExpiry (p : Port) (s : State) : Host.Outcome State Fault Refusal :=
  .next (s.silenceSecondStageExpiry p)

/-- Expiry of the push timer of port `p`: a capture into the push slot, and the timer starts again
(R157). -/
def State.pushTimerExpiry (p : Port) (s : State) : State :=
  if (s.port p).pushTimer = some 0 then
    s.modifyPort p fun c => { c with pushSlot := some s.capture, pushTimer := some c.pushInterval }
  else s

/-- Expiry of a push timer. -/
def execPushTimerExpiry (p : Port) (s : State) : Host.Outcome State Fault Refusal :=
  .next (s.pushTimerExpiry p)

/-! ### The tick -/

/-- Every expiry that is due and has not been taken yet is taken, in the order of the table of
operations, ports ascending: a timer expires when its ticks have passed and not later (R17). -/
def State.takeDue (s : State) : State :=
  let timers := s.entryWindowExpiry.gridWaitExpiry.countdownExpiry.closingWindowExpiry.resultsHoldExpiry
  let votes := allPorts.foldl (fun s p => s.voteExpiry p) timers
  let first := allPorts.foldl (fun s p => s.silenceFirstStageExpiry p) votes
  let second := allPorts.foldl (fun s p => s.silenceSecondStageExpiry p) first
  allPorts.foldl (fun s p => s.pushTimerExpiry p) second

/-- A running timer counts one tick. -/
def Timer.tick (t : Timer) : Timer := t.map (· - 1)

/-- A silence timer counts one tick. -/
def SilenceTimer.tick : SilenceTimer → SilenceTimer
  | .stopped => .stopped
  | .first n => .first (n - 1)
  | .second n => .second (n - 1)

/-- The phase timers count one tick (R17). -/
def RaceRecord.tick (r : RaceRecord) : RaceRecord :=
  { r with
    entryWindow := r.entryWindow.map (· + 1)
    gridWait := r.gridWait.tick
    countdown := r.countdown.tick
    closingWindow := r.closingWindow.tick
    resultsHold := r.resultsHold.tick }

/-- The timers of a port count one tick. -/
def PortState.tick (c : PortState) : PortState :=
  { c with silence := c.silence.tick, pushTimer := c.pushTimer.tick }

/-- One tick counted by every timer, the tick count and, in GREEN and FINISHING, the race clock
(R31, R147). -/
def State.countTick (s : State) : State :=
  { s with
    tickCount := s.tickCount + 1
    raceClock := if s.race.phase.running then s.raceClock + 1 else s.raceClock
    race := s.race.tick
    ports := s.ports.map PortState.tick }

/-- The next tick brings the race clock to the race limit (R35). -/
def State.atLimit (s : State) : Bool :=
  s.race.phase.running && decide (s.race.settings.raceLimit ≤ s.raceClock + 1)

/-- The tick that brings the race clock to the race limit, with the entry into RESULTS: one event
(R35). -/
def State.limitTick (s : State) : State := s.countTick.enterResults .limit

/-- One tick of the Timebase. The tick that reaches the race limit is the event of R35. -/
def State.tick (s : State) : State :=
  if s.takeDue.atLimit then s.takeDue.limitTick else s.takeDue.countTick

/-- One tick of the Timebase. -/
def execTick (s : State) : Host.Outcome State Fault Refusal := .next s.tick

/-- The tick that brings the race clock to the race limit (R35). -/
def execRaceLimit (s : State) : Host.Outcome State Fault Refusal :=
  .next (if s.takeDue.atLimit then s.takeDue.limitTick else s)

end Sys2Proof.Machine
end

