-- ==== Sys2Proof/Machine/Dispatch.lean ====
section
/-! DEFINITION. Every command with its meaning: one arm for each constructor of Instr. -/
namespace Sys2Proof.Machine

def exec (i : Instr) (s : State) : Host.Outcome State Fault Refusal :=
  match i with
  | .openRace port => Sys2Proof.Machine.execOpenRace port s
  | .setRules port => Sys2Proof.Machine.execSetRules port s
  | .loadCourse port => Sys2Proof.Machine.execLoadCourse port s
  | .enter port => Sys2Proof.Machine.execEnter port s
  | .carSetup port => Sys2Proof.Machine.execCarSetup port s
  | .closeEntries port => Sys2Proof.Machine.execCloseEntries port s
  | .ready port => Sys2Proof.Machine.execReady port s
  | .leave port => Sys2Proof.Machine.execLeave port s
  | .report port => Sys2Proof.Machine.execReport port s
  | .clearFlags port => Sys2Proof.Machine.execClearFlags port s
  | .snapshot port => Sys2Proof.Machine.execSnapshot port s
  | .readLaps port => Sys2Proof.Machine.execReadLaps port s
  | .readResults port => Sys2Proof.Machine.execReadResults port s
  | .abortVote port => Sys2Proof.Machine.execAbortVote port s
  | .withdrawVote port => Sys2Proof.Machine.execWithdrawVote port s
  | .identify port => Sys2Proof.Machine.execIdentify port s
  | .nop port => Sys2Proof.Machine.execNop port s
  | .setPush port => Sys2Proof.Machine.execSetPush port s
  | .clearErrors port => Sys2Proof.Machine.execClearErrors port s
  | .unknownFrameAnswer port => Sys2Proof.Machine.execUnknownFrameAnswer port s
  | .validFrame port kind payload => Sys2Proof.Machine.execValidFrame port kind payload s
  | .badCheckFrame port => Sys2Proof.Machine.execBadCheckFrame port s
  | .badLengthFrame port => Sys2Proof.Machine.execBadLengthFrame port s
  | .resynchronisingCandidateDiscard port => Sys2Proof.Machine.execResynchronisingCandidateDiscard port s
  | .lossOfSignal port => Sys2Proof.Machine.execLossOfSignal port s
  | .hardwareReset => Sys2Proof.Machine.execHardwareReset s
  | .entryWindowExpiry => Sys2Proof.Machine.execEntryWindowExpiry s
  | .gridWaitExpiry => Sys2Proof.Machine.execGridWaitExpiry s
  | .countdownExpiry => Sys2Proof.Machine.execCountdownExpiry s
  | .closingWindowExpiry => Sys2Proof.Machine.execClosingWindowExpiry s
  | .raceLimit => Sys2Proof.Machine.execRaceLimit s
  | .resultsHoldExpiry => Sys2Proof.Machine.execResultsHoldExpiry s
  | .voteExpiry port => Sys2Proof.Machine.execVoteExpiry port s
  | .silenceFirstStageExpiry port => Sys2Proof.Machine.execSilenceFirstStageExpiry port s
  | .silenceSecondStageExpiry port => Sys2Proof.Machine.execSilenceSecondStageExpiry port s
  | .pushTimerExpiry port => Sys2Proof.Machine.execPushTimerExpiry port s
  | .transmitTake port => Sys2Proof.Machine.execTransmitTake port s
  | .tick => Sys2Proof.Machine.execTick s

end Sys2Proof.Machine
end

