-- ==== Sys2Proof/Machine/Step.lean ====
section
/-! DEFINITION. One step: the command at the front of the queue is performed. -/
namespace Sys2Proof.Machine

/-- The command at the front of the queue leaves it and is performed; with no command waiting the part
idles. -/
def step (s : State) : Host.Outcome State Fault Refusal :=
  match s.pending with
  | [] => .next s
  | command :: rest => exec command { s with pending := rest }

/-- The state with the command that a word spells put at the front of its queue; no word spells one. -/
def State.withFetchWord (s : State) (nbits w : Nat) : State :=
  match decodeTableWord nbits w with
  | some command => { s with pending := command :: s.pending }
  | none => s

end Sys2Proof.Machine
end

