-- ==== Sys2Proof/Safety.lean ====
section
/-! DEFINITION. What every run keeps, in the terms the statements use: the bounds and couplings of a port,
the legality of the race record, the hold, the running order, and the distances; and the relations that
say what a command leaves unchanged. -/
namespace Sys2Proof.Machine

/-! ### Ports -/

/-- The silence timer that a presence goes with (Table 7.1). -/
def SilenceTimer.fits : Presence → SilenceTimer → Bool
  | .absent, t | .lost, t => decide (t = .stopped)
  | .present, .first n => decide (n ≤ firstStageLength)
  | .late, .second n => decide (n ≤ secondStageLength)
  | .present, .stopped | .present, .second _ | .late, .stopped | .late, .first _ => false

/-- What one cabinet port and its supervisor keep, in a phase of the race. -/
structure PortState.Sound (phase : Phase) (c : PortState) : Prop where
  /-- The request queue has four entries (R175). -/
  requests : c.requestQueue.length ≤ requestCapacity
  /-- The response queue has six entries (R176). -/
  responses : c.responseQueue.length ≤ responseCapacity
  /-- A notice queue never holds more than 16 notices (R162). -/
  notices : c.noticeQueue.length ≤ noticeCapacity
  /-- While the overflow condition is set the queue holds 16 notices (R162). -/
  overflowFull : c.overflow = true → c.noticeQueue.length = noticeCapacity
  /-- The eighth bad check takes the link DOWN and the count to 0 (R171). -/
  badChecks : c.badChecks < badCheckLimit
  /-- A link that is DOWN has its queues and its push slot empty, and sends nothing (R178, R179). -/
  downEmpty : c.link = .down → c.requestQueue = [] ∧ c.responseQueue = [] ∧ c.noticeQueue = [] ∧
    c.overflow = false ∧ c.pushSlot = none ∧ c.pushInterval = 0 ∧ c.badChecks = 0 ∧ c.sending = none
  /-- A PRESENT port has its link UP (R164). -/
  presentUp : c.presence = .present → c.link = .up
  /-- A port that is ABSENT has had no valid frame since hardware reset (Table 7.1). -/
  absentDown : c.presence = .absent → c.link = .down
  /-- The silence timer goes with the presence (Table 7.1). -/
  silence : c.silence.fits c.presence = true
  /-- A fenced port is LATE or LOST (R143, R134). -/
  fencedAway : c.fenced = true → c.presence = .late ∨ c.presence = .lost
  /-- A fenced port's error record is HELD with MULTIPLE set (R142). -/
  fencedRecord : c.fenced = true → c.errorRecord.map ErrorRecord.multiple = some true
  /-- The push timer runs while the interval is not 0, the link is UP and the phase is not IDLE (R156). -/
  push : c.pushTimer.isSome = true ↔ c.pushInterval ≠ 0 ∧ c.link = .up ∧ phase ≠ .idle
  /-- The push interval is 0 or 16 to 1,000 (Table 8.6). -/
  interval : pushIntervalInRange c.pushInterval = true

/-- Every port is sound. -/
def State.PortsSound (s : State) : Prop := ∀ p : Port, (s.port p).Sound s.race.phase

/-! ### The race record -/

/-- The standings that occur in a phase (Table 2.4). -/
def Phase.allows : Phase → Standing → Bool
  | .idle, _ => false
  | .forming, x => decide (x = .entered)
  | .grid, x => decide (x = .entered) || decide (x = .ready)
  | .countdown, x => decide (x = .ready)
  | .green, .racing | .green, .coasting | .green, .retired _ _ => true
  | .green, _ => false
  | .finishing, .racing | .finishing, .coasting | .finishing, .retired _ _
  | .finishing, .finished _ => true
  | .finishing, _ => false
  | .results, .finished _ | .results, .stopped | .results, .retired _ _ => true
  | .results, _ => false

/-- The race record, the course record and the car table agree on the phase. -/
structure State.RaceSound (s : State) : Prop where
  /-- An opener exists exactly in FORMING (R22). -/
  opener : s.race.opener.isSome = true ↔ s.race.phase = .forming
  /-- The opener's car is ENTERED (R22). -/
  openerEntered : ∀ p : Port, s.race.opener = some p → s.carState p = .entered
  /-- Car states by phase (Table 2.4). -/
  standings : ∀ p : Port, ∀ c : Car, s.car p = some c → s.race.phase.allows c.standing = true
  /-- In every phase but IDLE the race has a car (R105, R152). -/
  someCar : s.race.phase ≠ .idle → 0 < s.carCount
  /-- Every race that has left FORMING holds a LOADED course (R12). -/
  courseLocked : s.race.phase.locked = true → s.course.isSome = true
  /-- In IDLE the course record is EMPTY (R40). -/
  courseIdle : s.race.phase = .idle → s.course = none
  /-- The entry list is empty in IDLE (R44). -/
  entryIdle : s.race.phase = .idle → s.entryList = []
  /-- The groups and the finish list are empty before the green (R93, R104). -/
  groupsBefore : s.race.phase.afterGreen = false →
    s.activeGroup = [] ∧ s.retiredGroup = [] ∧ s.finishList = []
  /-- The hold slot is occupied only in COUNTDOWN (R113). -/
  hold : s.race.holdSlot.isSome = true → s.race.phase = .countdown
  /-- In COUNTDOWN the countdown timer runs exactly while the slot is empty (R31, R115). -/
  countdown : s.race.countdown.isSome = true ↔ s.race.phase = .countdown ∧ s.race.holdSlot = none
  /-- The entry window runs exactly in FORMING (R17). -/
  entryWindow : s.race.entryWindow.isSome = true ↔ s.race.phase = .forming
  /-- The grid wait runs exactly in GRID (R17). -/
  gridWait : s.race.gridWait.isSome = true ↔ s.race.phase = .grid
  /-- The closing window runs exactly in FINISHING (R33). -/
  closing : s.race.closingWindow.isSome = true ↔ s.race.phase = .finishing
  /-- The results hold runs exactly in RESULTS (R17). -/
  resultsHold : s.race.resultsHold.isSome = true ↔ s.race.phase = .results
  /-- Votes are held in GREEN and FINISHING only, by ports whose car counts (R121). -/
  votes : ∀ p : Port, (s.race.votes.get p).isSome = true →
    s.race.phase.running = true ∧ ∃ c, s.car p = some c ∧ c.standing.eligible = true
  /-- The release set is empty outside RESULTS and holds race ports only (R37, R40). -/
  released : ∀ p : Port, s.race.releaseSet.get p = true →
    s.race.phase = .results ∧ s.isRacePort p = true
  /-- The results reason is present exactly in RESULTS (Table 2.1). -/
  reason : s.race.resultsReason.isSome = true ↔ s.race.phase = .results
  /-- The results table is present exactly in RESULTS (R105). -/
  table : s.resultsTable.isSome = true ↔ s.race.phase = .results
  /-- The race clock is 0 before the green (R31). -/
  clock : s.race.phase.afterGreen = false → s.raceClock = 0

/-! ### Holds and coasting -/

/-- The hold and the coasting cars follow the presence of their ports. -/
structure State.HoldSound (s : State) : Prop where
  /-- In COUNTDOWN the slot is occupied exactly while some READY car's port is LATE (R113, R114). -/
  held : s.race.phase = .countdown → (s.race.holdSlot.isSome = s.anyReadyLate)
  /-- A car is COASTING only while the phase is GREEN or FINISHING and its port is LATE (R137). -/
  coasting : ∀ p : Port, s.carState p = .coasting →
    s.race.phase.running = true ∧ (s.port p).presence = .late

/-! ### The running order -/

/-- Values that never increase from the head of a list to its tail. -/
def NonIncreasing (l : List Nat) : Prop := l.Pairwise fun a b => b ≤ a

/-- Whether a standing belongs in the active group: RACING, COASTING or STOPPED (R93). -/
def Standing.active : Standing → Bool
  | .racing | .coasting | .stopped => true
  | .entered | .ready | .finished _ | .retired _ _ => false

/-- The running order and its groups. -/
structure State.OrderSound (s : State) : Prop where
  /-- The running order holds no slot twice (R92). -/
  nodup : s.runningOrder.Nodup
  /-- The running order holds exactly the cars that are not EMPTY (R92). -/
  complete : ∀ p : Port, p ∈ s.runningOrder ↔ s.isRacePort p = true
  /-- The active group holds RACING, COASTING and STOPPED cars (R93). -/
  active : ∀ p ∈ s.activeGroup, ∃ c, s.car p = some c ∧ c.standing.active = true
  /-- The RETIRED group holds RETIRED cars (R93). -/
  retired : ∀ p ∈ s.retiredGroup, s.carState p = .retired
  /-- Each entry of the finish list is a FINISHED car with its finish time (R103). -/
  finished : ∀ e ∈ s.finishList, ∃ c, s.car e.slot = some c ∧ c.standing = .finished e.time
  /-- D never increases along the active group (R95). -/
  activeOrder : NonIncreasing (s.activeGroup.map s.distance)
  /-- D never increases along the RETIRED group (R98). -/
  retiredOrder : NonIncreasing (s.retiredGroup.map s.distance)
  /-- Finish times never decrease along the finish list and lie on the clock (R103). -/
  times : NonIncreasing (s.finishList.map FinishEntry.time).reverse ∧
    ∀ e ∈ s.finishList, e.time ≤ s.raceClock
  /-- Each car's entry position is its place in the entry list (R44). -/
  entryPositions : ∀ p : Port, ∀ c : Car, s.car p = some c →
    s.entryList.idxOf? p = some (c.entryPosition - 1) ∧ 1 ≤ c.entryPosition

/-! ### Distances -/

/-- A course record holds a valid definition (R3, R5). -/
def Course.Sound (c : Course) : Prop := validDefinition c.lapLength c.gates = true

/-- The bounds of R77 for one car after the green. -/
structure Car.DistanceSound (course : Course) (laps : Nat) (c : Car) : Prop where
  /-- D lies at or above the floor (R77). -/
  floor : course.position c.floorGate ≤ c.distance
  /-- D lies at or below F (R77). -/
  finish : c.distance ≤ course.finish laps
  /-- The next gate is the gate after the floor gate along the chain (R10). -/
  next : c.nextGate = course.next laps c.floorGate
  /-- D lies below the next gate (R77). -/
  below : ∀ g, c.nextGate = some g → c.distance < course.position g
  /-- The floor gate is a gate of the chain (R8). -/
  gate : (1 ≤ c.floorGate.lap ∧ c.floorGate.lap ≤ laps ∧ c.floorGate.index < course.gates.length) ∨
    c.floorGate = ⟨laps + 1, 0⟩
  /-- A car is FINISHED exactly when D is F (R77). -/
  finished : c.standing.isFinished = true ↔ c.distance = course.finish laps
  /-- The lap list holds one entry for each completed lap (R79). -/
  laps : c.laps.length + 1 = c.floorGate.lap

/-- The settings lie in their ranges (R19, R20). -/
def Settings.Sound (x : Settings) : Prop :=
  ∀ i < 9, (settingRange i).1 ≤ x.values.getD i 0 ∧ x.values.getD i 0 ≤ (settingRange i).2

/-- The course, the settings and, after the green, every car's distance are within their bounds. -/
structure State.DistancesSound (s : State) : Prop where
  /-- The course record holds a valid definition (R3). -/
  course : ∀ c : Course, s.course = some c → c.Sound
  /-- The settings lie in their ranges (Table 2.3). -/
  settings : s.race.settings.Sound
  /-- The bounds of every car after the green (R77). -/
  cars : s.race.phase.afterGreen = true → ∀ course : Course, s.course = some course →
    ∀ p : Port, ∀ c : Car, s.car p = some c → c.DistanceSound course s.race.settings.laps
  /-- Before the green every car stands at D 0 on gate (1, 0) with no lap (Table 3.4). -/
  grid : s.race.phase.afterGreen = false → ∀ p : Port, ∀ c : Car, s.car p = some c →
    c.distance = 0 ∧ c.floorGate = startGate ∧ c.laps = []

/-! ### What a command leaves unchanged -/

/-- The race state is the same: the race record, the course, the cars, the lists and the race clock. -/
structure State.SameRace (s t : State) : Prop where
  race : t.race = s.race
  course : t.course = s.course
  cars : t.cars = s.cars
  entryList : t.entryList = s.entryList
  activeGroup : t.activeGroup = s.activeGroup
  retiredGroup : t.retiredGroup = s.retiredGroup
  finishList : t.finishList = s.finishList
  resultsTable : t.resultsTable = s.resultsTable
  raceClock : t.raceClock = s.raceClock

/-- A port is the same but for its notice queue and its overflow condition. -/
def PortState.SameButNotices (c d : PortState) : Prop :=
  d = { c with noticeQueue := d.noticeQueue, overflow := d.overflow }

/-- A port is the same but for its notice queue, its overflow condition and its push timer. -/
def PortState.SameButNoticesAndPush (c d : PortState) : Prop :=
  d = { c with noticeQueue := d.noticeQueue, overflow := d.overflow, pushTimer := d.pushTimer }

/-- A granted request of port `p` does to the ports no more than this: on `p` the request leaves and the
response is placed, notices are offered on any port, and push timers change only as the race leaves IDLE
or returns to it. -/
structure State.GrantFrame (p : Port) (response : Response) (s t : State) : Prop where
  own : (t.port p).requestQueue = (s.port p).requestQueue.tail ∧
    (t.port p).responseQueue = (s.port p).responseQueue ++ [response] ∧
    t.port p = { s.port p with
      requestQueue := (t.port p).requestQueue
      responseQueue := (t.port p).responseQueue
      noticeQueue := (t.port p).noticeQueue
      overflow := (t.port p).overflow
      pushTimer := (t.port p).pushTimer }
  others : ∀ q : Port, q ≠ p → (s.port q).SameButNoticesAndPush (t.port q)
  /-- Push timers stay while the race neither leaves IDLE nor returns to it (R156). -/
  push : (s.race.phase = .idle ↔ t.race.phase = .idle) →
    ∀ q : Port, (t.port q).pushTimer = (s.port q).pushTimer
  /-- The return to IDLE stops every push timer (R156). -/
  pushIdle : s.race.phase ≠ .idle → t.race.phase = .idle → ∀ q : Port, (t.port q).pushTimer = none
  pointer : t.raaPointer = p
  ticks : t.tickCount = s.tickCount
  commands : t.pending = s.pending

/-- The state after a granted request of port `p` that does nothing but be answered: it has left the
queue, its response is placed, and the pointer names the port (R61). -/
def State.answered (p : Port) (response : Response) (s : State) : State :=
  { s.modifyPort p (fun c => c.dropRequest.respond response) with raaPointer := p }

/-- The state after a port-local request of port `p` that does nothing but be answered (R176). -/
def State.answeredLocally (p : Port) (response : Response) (s : State) : State :=
  s.modifyPort p fun c => c.dropRequest.respond response

/-- A port that is offered a notice only where a condition holds. -/
def PortState.offerIf (offered : Bool) (n : Notice) (c : PortState) : PortState :=
  if offered then c.offer n else c

/-- Two ports hold the same notices and the same overflow condition. -/
def PortState.SameNotices (c d : PortState) : Prop :=
  d.noticeQueue = c.noticeQueue ∧ d.overflow = c.overflow

/-- Every car but that of slot `p` is as it was. -/
def State.OtherCars (p : Port) (s t : State) : Prop := ∀ q : Port, q ≠ p → t.car q = s.car q

/-- What the entry into RESULTS does, while some race port is still to be waited for (R36). -/
structure State.EnteredResults (reason : Reason) (s t : State) : Prop where
  race : t.race = { s.race with
    phase := .results, resultsReason := some reason, closingWindow := none, votes := .fill none,
    releaseSet := t.race.releaseSet, resultsHold := some s.race.settings.resultsHold }
  released : ∀ q : Port, t.race.releaseSet.get q = true ↔
    s.isRacePort q = true ∧ (s.port q).presence = .lost
  cars : ∀ q : Port, t.car q = (s.car q).map fun c =>
    if c.standing.running then { c with standing := .stopped } else c
  order : t.entryList = s.entryList ∧ t.activeGroup = s.activeGroup ∧
    t.retiredGroup = s.retiredGroup ∧ t.finishList = s.finishList
  table : t.resultsTable = some ((s.stopRace reason).buildResults reason)
  course : t.course = s.course
  clock : t.raceClock = s.raceClock ∧ t.tickCount = s.tickCount
  ports : ∀ q : Port, t.port q =
    (s.port q).offerIf (s.isPresentPort q) (.phase (.changed .results reason) s.race.number)
  others : t.pending = s.pending ∧ t.raaPointer = s.raaPointer

/-- What the return to IDLE leaves (R40). -/
structure State.ReturnedToIdle (reason : Reason) (s t : State) : Prop where
  race : t.race = { RaceRecord.reset with number := s.race.number, settings := s.race.settings }
  cars : ∀ q : Port, t.car q = none
  course : t.course = none
  lists : t.entryList = [] ∧ t.activeGroup = [] ∧ t.retiredGroup = [] ∧ t.finishList = [] ∧
    t.resultsTable = none
  clock : t.raceClock = 0 ∧ t.tickCount = s.tickCount
  ports : ∀ q : Port, t.port q =
    ({ s.port q with pushTimer := none } : PortState).offerIf (s.isPresentPort q)
      (.phase (.changed .idle reason) s.race.number)
  others : t.pending = s.pending ∧ t.raaPointer = s.raaPointer

/-- No expiry is due. -/
structure State.NothingDue (s : State) : Prop where
  entryWindow : s.entryWindowDue = false
  gridWait : ¬(s.race.phase = .grid ∧ s.race.gridWait = some 0)
  countdown : ¬(s.race.phase = .countdown ∧ s.race.countdown = some 0)
  closingWindow : ¬(s.race.phase = .finishing ∧ s.race.closingWindow = some 0)
  resultsHold : ¬(s.race.phase = .results ∧ s.race.resultsHold = some 0)
  votes : ∀ p : Port, s.voteDue p = false
  firstStage : ∀ p : Port, (s.port p).silence ≠ .first 0
  secondStage : ∀ p : Port, (s.port p).silence ≠ .second 0
  push : ∀ p : Port, (s.port p).pushTimer ≠ some 0

/-! ### Notices, port by port -/

/-- Notices offered to a port one after another. -/
def PortState.offerAll (notices : List Notice) (c : PortState) : PortState :=
  notices.foldl (fun c n => c.offer n) c

/-- A notice where a condition holds. -/
def noticeIf (raised : Bool) (n : Notice) : List Notice := if raised then [n] else []

/-- What one port is offered for a move of the running order: a POSITION notice where its own car's
position has changed, and then, as a race port, a LEADER notice where another car now leads (R100, R101). -/
def moveNotices (isRace : Bool) (q : Port) (before after : List Port) : List Notice :=
  (match before.idxOf? q, after.idxOf? q with
    | some i, some j => noticeIf (decide (i ≠ j)) (.position (j + 1))
    | _, _ => []) ++
  (match after.head? with
    | some leader => noticeIf (isRace && decide (before.head? ≠ some leader)) (.leader leader)
    | none => [])

/-! ### The requests with their commands -/

/-- The requests that the arbiter grants, with the command that grants each to port `p` (R61, R63). -/
def raceRequests (p : Port) : List (RequestKind × Instr) :=
  [(.openRace, .openRace p), (.setRules, .setRules p), (.loadCourse, .loadCourse p), (.enter, .enter p),
   (.carSetup, .carSetup p), (.closeEntries, .closeEntries p), (.ready, .ready p), (.leave, .leave p),
   (.report, .report p), (.clearFlags, .clearFlags p), (.snapshot, .snapshot p),
   (.readLaps, .readLaps p), (.readResults, .readResults p), (.abortVote, .abortVote p),
   (.withdrawVote, .withdrawVote p)]

/-- The requests that a port answers itself, with the command that answers each on port `p` (R63). -/
def localRequests (p : Port) : List (RequestKind × Instr) :=
  [(.identify, .identify p), (.nop, .nop p), (.setPush, .setPush p), (.clearErrors, .clearErrors p)]

/-! ### The two ends of a grant -/

/-- The state with the request at the head of port `p` taken off its queue (R61). -/
def State.requestTaken (p : Port) (s : State) : State := s.modifyPort p PortState.dropRequest

/-- The state with the response of a granted request placed and the pointer set (R61). -/
def State.responsePlaced (p : Port) (response : Response) (s : State) : State :=
  { s.modifyPort p (fun c => c.respond response) with raaPointer := p }

/-- The state with another request at the head of port `p`. -/
def State.withHead (p : Port) (r : Request) (s : State) : State :=
  s.modifyPort p fun c => { c with requestQueue := .request r :: c.requestQueue.tail }

/-! ### Events of a race, as the rules state them -/

/-- Some READY car's port is LATE (R114). -/
def State.SomeReadyLate (s : State) : Prop :=
  ∃ q : Port, s.carState q = .ready ∧ (s.port q).presence = .late

/-- Some car is RACING or COASTING (R34). -/
def State.SomeRunning (s : State) : Prop :=
  ∃ (q : Port) (c : Car), s.car q = some c ∧ c.standing.running = true

/-- Some race port is not LOST, so the release set does not hold them all on the entry into RESULTS
(R36, R37). -/
def State.SomeAwaited (s : State) : Prop :=
  ∃ q : Port, s.isRacePort q = true ∧ (s.port q).presence ≠ .lost

/-- The entry into COUNTDOWN: running, or held with all of the countdown saved, with its PHASE notices
(R27, R116). -/
structure State.EnteredCountdown (s t : State) : Prop where
  running : ¬s.SomeReadyLate →
    t = { s with
      race := { s.race with phase := .countdown, gridWait := none, holdSlot := none,
                            countdown := some s.race.settings.countdownLength }
      ports := t.ports } ∧
    ∀ q : Port, t.port q = (s.port q).offerAll
      (noticeIf (s.isPresentPort q) (.phase (.changed .countdown .none) s.race.number))
  held : s.SomeReadyLate →
    t = { s with
      race := { s.race with phase := .countdown, gridWait := none, countdown := none,
                            holdSlot := some s.race.settings.countdownLength }
      ports := t.ports } ∧
    ∀ q : Port, t.port q = (s.port q).offerAll
      (noticeIf (s.isPresentPort q) (.phase (.changed .countdown .none) s.race.number) ++
        noticeIf (s.isPresentPort q) (.phase .held s.race.number))

/-- The hold test in COUNTDOWN: a hold begins with the time left saved, the countdown resumes from the
saved time, or nothing changes (R114, R115, R118). -/
structure State.HoldTested (s t : State) : Prop where
  begins : s.race.holdSlot = none → s.SomeReadyLate →
    ∀ left : Nat, s.race.countdown = some left → 1 ≤ left →
    t = { s with race := { s.race with holdSlot := some left, countdown := none }, ports := t.ports } ∧
    ∀ q : Port, t.port q = (s.port q).offerAll
      (noticeIf (s.isPresentPort q) (.phase .held s.race.number))
  resumes : ∀ saved : Nat, s.race.holdSlot = some saved → ¬s.SomeReadyLate →
    t = { s with race := { s.race with holdSlot := none, countdown := some saved }, ports := t.ports } ∧
    ∀ q : Port, t.port q = (s.port q).offerAll
      (noticeIf (s.isPresentPort q) (.phase .resumed s.race.number))
  stays : (s.race.holdSlot.isSome = true ↔ s.SomeReadyLate) → t = s

/-- The withdrawal of car `c` of port `p`: the ENTRY notice, the removal from the entry list, the car
EMPTY, and the notices of the move (R52, R44). -/
structure State.Withdrawn (p : Port) (reason : Reason) (c : Car) (s t : State) : Prop where
  rest : t = { s with cars := t.cars, entryList := s.entryList.filter (fun q => q ≠ p), ports := t.ports }
  gone : t.car p = none
  others : ∀ q : Port, q ≠ p → t.car q = (s.car q).map fun d =>
    if c.entryPosition < d.entryPosition then { d with entryPosition := d.entryPosition - 1 } else d
  /-- The notices of a move are told where the running order holds no car twice, as R92 has it. -/
  ports : s.race.phase.afterGreen = false → s.entryList.Nodup → ∀ q : Port,
    t.port q = (s.port q).offerAll
      (noticeIf (s.isRacePort q) (.entry p .withdrawn reason c.entryPosition) ++
        moveNotices (t.isRacePort q) q s.entryList t.entryList)

/-- The cars of several ports are withdrawn one after another, in the order of the list (R52). -/
def State.WithdrawnEach (reason : Reason) : List Port → State → State → Prop
  | [], s, t => t = s
  | p :: rest, s, t => ∃ (c : Car) (u : State),
      s.car p = some c ∧ s.Withdrawn p reason c u ∧ u.WithdrawnEach reason rest t

/-- The tests that follow a withdrawal of the car of port `p`: the handover in FORMING (R23), the collapse
and the all-READY test in GRID (R29, R27), the collapse and the hold test in COUNTDOWN (R29, R114). -/
structure State.AfterWithdrawal (p : Port) (s t : State) : Prop where
  forming : s.race.phase = .forming → s.race.opener ≠ some p → t = s
  handover : s.race.phase = .forming → s.race.opener = some p →
    ∀ q : Port, s.carState q = .entered → (∀ x : Port, x < q → s.carState x ≠ .entered) →
    t = { s with race := { s.race with opener := some q }, ports := t.ports } ∧
    ∀ x : Port, t.port x = (s.port x).offerAll
      (noticeIf (s.isPresentPort x) (.phase (.opener q) s.race.number))
  noOpener : s.race.phase = .forming → s.race.opener = some p →
    (∀ q : Port, s.carState q ≠ .entered) → s.ReturnedToIdle .noOpener t
  noStarters : s.race.phase = .grid ∨ s.race.phase = .countdown →
    (∀ q : Port, s.car q = none) → s.ReturnedToIdle .noStarters t
  gridWaits : s.race.phase = .grid → (∃ q : Port, s.car q ≠ none ∧ s.carState q ≠ .ready) → t = s
  gridReady : s.race.phase = .grid → (∃ q : Port, s.car q ≠ none) →
    (∀ q : Port, s.car q ≠ none → s.carState q = .ready) → s.EnteredCountdown t
  countdown : s.race.phase = .countdown → (∃ q : Port, s.car q ≠ none) → s.HoldTested t

/-- The retirement of the car of port `p`, before its end tests: the CAR_STATE notice, the move into the
RETIRED group with its notices, the vote removed, and the VOTE notice (R54, R98, R128). -/
structure State.Retired (p : Port) (reason : Reason) (s t : State) : Prop where
  rest : t = { s with
    cars := t.cars
    race := { s.race with votes := s.race.votes.set p none }
    activeGroup := s.activeGroup.filter (fun q => q ≠ p)
    retiredGroup := s.placeByDistance p s.retiredGroup
    ports := t.ports }
  car : t.car p = (s.car p).map fun c => { c with standing := .retired reason s.raceClock }
  others : s.OtherCars p t
  ports : t.runningOrder.Nodup → ∀ q : Port, t.port q = (s.port q).offerAll
    (noticeIf (s.isRacePort q) (.carState p .retired reason) ++
      moveNotices (s.isRacePort q) q s.runningOrder t.runningOrder ++
      noticeIf (s.isRacePort q) (.vote t.voteCount t.eligibleCount))

/-- The entry into RESULTS with its release test: the race stays there while some race port is awaited,
and is released at once where every race port is LOST (R36, R37). -/
def State.CameToResults (reason : Reason) (s t : State) : Prop :=
  ∃ u : State, s.EnteredResults reason u ∧ (s.SomeAwaited → t = u) ∧
    (¬s.SomeAwaited → u.ReturnedToIdle .released t)

/-- The end tests after a finish or a retirement, in their order: all done, the abort threshold, and
after a finish in GREEN the first finish (R32, R34, R126). -/
structure State.EndTested (afterFinish : Bool) (s t : State) : Prop where
  allFinished : ¬s.SomeRunning → (∃ q : Port, s.carState q = .finished) →
    s.CameToResults .allFinished t
  allRetired : ¬s.SomeRunning → (∀ q : Port, s.carState q ≠ .finished) → s.CameToResults .allRetired t
  aborted : s.SomeRunning → s.eligibleCount < 2 * s.voteCount → s.CameToResults .aborted t
  closed : s.SomeRunning → 2 * s.voteCount ≤ s.eligibleCount → afterFinish = true →
    s.race.phase = .green → s.race.settings.closingWindow = 0 → s.CameToResults .closed t
  finishing : s.SomeRunning → 2 * s.voteCount ≤ s.eligibleCount → afterFinish = true →
    s.race.phase = .green → 0 < s.race.settings.closingWindow →
    t = { s with
      race := { s.race with phase := .finishing, closingWindow := some s.race.settings.closingWindow }
      ports := t.ports } ∧
    ∀ q : Port, t.port q = (s.port q).offerAll
      (noticeIf (s.isPresentPort q) (.phase (.changed .finishing .none) s.race.number))
  goesOn : s.SomeRunning → 2 * s.voteCount ≤ s.eligibleCount →
    afterFinish = false ∨ s.race.phase ≠ .green → t = s

/-! ### Effects of presence on the race, as the rules state them -/

/-- The effects of port `p` having gone LATE (R137). -/
structure State.LateEffects (p : Port) (reason : Reason) (s t : State) : Prop where
  coasts : s.race.phase.running = true → ∀ c : Car, s.car p = some c → c.standing = .racing →
    t = { s with cars := t.cars, ports := t.ports } ∧
    t.car p = some { c with standing := .coasting } ∧ s.OtherCars p t ∧
    ∀ q : Port, t.port q = (s.port q).offerAll
      (noticeIf (s.isRacePort q) (.carState p .coasting reason))
  holds : s.race.phase = .countdown → s.carState p = .ready → s.HoldTested t
  otherwise : ¬(s.race.phase.running = true ∧ s.carState p = .racing) →
    ¬(s.race.phase = .countdown ∧ s.carState p = .ready) → t = s

/-- The effects of port `p` having returned from LATE to PRESENT (R138). -/
structure State.ReturnEffects (p : Port) (s t : State) : Prop where
  races : s.race.phase.running = true → ∀ c : Car, s.car p = some c → c.standing = .coasting →
    t = { s with cars := t.cars, ports := t.ports } ∧
    t.car p = some { c with standing := .racing } ∧ s.OtherCars p t ∧
    ∀ q : Port, t.port q = (s.port q).offerAll
      (noticeIf (s.isRacePort q) (.carState p .racing .none))
  resumes : s.race.phase = .countdown → s.carState p = .ready → s.HoldTested t
  otherwise : ¬(s.race.phase.running = true ∧ s.carState p = .coasting) →
    ¬(s.race.phase = .countdown ∧ s.carState p = .ready) → t = s

/-- The effects of port `p` having become LOST (R139). -/
structure State.LostEffects (p : Port) (s t : State) : Prop where
  withdraws : s.race.phase = .forming ∨ s.race.phase = .grid ∨ s.race.phase = .countdown →
    ∀ c : Car, s.car p = some c →
    ∃ u : State, s.Withdrawn p .silent c u ∧ u.AfterWithdrawal p t
  retires : s.race.phase.running = true → s.carState p = .coasting →
    ∃ u : State, s.Retired p (if (s.port p).fenced then .fenced else .silent) u ∧ u.EndTested false t
  released : s.race.phase = .results → s.isRacePort p = true →
    (∃ q : Port, q ≠ p ∧ s.isRacePort q = true ∧ s.race.releaseSet.get q = false) →
    t = { s with race := { s.race with releaseSet := s.race.releaseSet.set p true } }
  lastReleased : s.race.phase = .results → s.isRacePort p = true →
    (∀ q : Port, q ≠ p → s.isRacePort q = true → s.race.releaseSet.get q = true) →
    s.ReturnedToIdle .released t
  otherwise : s.race.phase = .idle ∨ s.car p = none ∨
    s.race.phase.running = true ∧ s.carState p ≠ .coasting → t = s

/-! ### Major errors and link loss, as the rules state them -/

/-- A major error of port `p`: the first fills the record with an ERROR notice, the second sets MULTIPLE,
the third fences the port, which goes LATE from PRESENT or LOST, and a fenced port's errors change nothing
(R140 to R143). -/
structure State.TookMajorError (p : Port) (kind : ErrorKind) (requestKind : Option Byte) (s t : State) :
    Prop where
  first : (s.port p).errorRecord = none →
    t = s.modifyPort p fun c =>
      ({ c with errorRecord := some ⟨kind, requestKind, s.raceClock, false⟩ } : PortState).offer
        (.error kind)
  second : ∀ record : ErrorRecord, (s.port p).errorRecord = some record → record.multiple = false →
    t = s.modifyPort p fun c => { c with errorRecord := some { record with multiple := true } }
  fences : ∀ record : ErrorRecord, (s.port p).errorRecord = some record → record.multiple = true →
    (s.port p).fenced = false → (s.port p).presence = .present ∨ (s.port p).presence = .lost →
    (s.modifyPort p fun c => { c with fenced := true, presence := .late, silence := .second 2750 }
      ).LateEffects p .fenced t
  fencesLate : ∀ record : ErrorRecord, (s.port p).errorRecord = some record → record.multiple = true →
    (s.port p).fenced = false → (s.port p).presence = .late →
    t = s.modifyPort p fun c => { c with fenced := true }
  fenced : ∀ record : ErrorRecord, (s.port p).errorRecord = some record → record.multiple = true →
    (s.port p).fenced = true → t = s

/-- A port whose link has gone DOWN: everything on its link is gone (R171, R179). -/
def PortState.flushed (c : PortState) : PortState :=
  { c with
    link := .down, badChecks := 0, receiver := ⟨[], 0⟩, requestQueue := [], responseQueue := []
    noticeQueue := [], overflow := false, pushInterval := 0, pushTimer := none, pushSlot := none
    sending := none }

/-- The link of port `p` goes DOWN: the port is flushed, and a PRESENT port goes LATE (R179, R133). -/
structure State.LostLink (p : Port) (s t : State) : Prop where
  present : (s.port p).presence = .present →
    (s.modifyPort p fun c => { c.flushed with presence := .late, silence := .second 2750 }
      ).LateEffects p .silent t
  away : (s.port p).presence ≠ .present → t = s.modifyPort p PortState.flushed

/-! ### Reception, as the rules state it -/

/-- A frame with a correct check has arrived at port `p`: the link is UP with the count at 0, and a port
that is not fenced is PRESENT with its first stage at 250 ms, with the effects of a return where it was LATE
(R171, R174, R131, R138). -/
structure State.FrameArrived (p : Port) (s t : State) : Prop where
  fenced : (s.port p).fenced = true →
    t = s.modifyPort p fun c => { c with link := .up, badChecks := 0 }
  returns : (s.port p).fenced = false → (s.port p).presence = .late →
    (s.modifyPort p fun c =>
      { c with link := .up, badChecks := 0, presence := .present, silence := .first 250 }
      ).ReturnEffects p t
  heard : (s.port p).fenced = false → (s.port p).presence ≠ .late →
    t = s.modifyPort p fun c =>
      { c with link := .up, badChecks := 0, presence := .present, silence := .first 250 }

/-- The search of the bytes that a receiver holds, turn by turn: from what it holds, to what it keeps and
the commands of the candidates judged. The first bytes held may belong to a candidate already discarded; a
candidate that starts among them and fails is a resynchronising one, brings no error, and adds its own bytes
to the discarded ones (R172, R173). -/
inductive Receiver.Searched (p : Port) : Receiver → Receiver → List Instr → Prop
  /-- Nothing is held. -/
  | hunts (discarded : Nat) : Searched p ⟨[], discarded⟩ ⟨[], discarded⟩ []
  /-- A byte other than SYNC is passed over. -/
  | passes {discarded : Nat} {b : Byte} {rest : List Byte} {r : Receiver} {found : List Instr} :
      b ≠ 0xC3 → Searched p ⟨rest, discarded - 1⟩ r found →
      Searched p ⟨b :: rest, discarded⟩ r found
  /-- The candidate has no LEN yet. -/
  | awaitsLength (discarded : Nat) : Searched p ⟨[0xC3], discarded⟩ ⟨[0xC3], discarded⟩ []
  /-- The candidate is not complete yet. -/
  | awaitsBytes (discarded : Nat) {len : Byte} {rest : List Byte} :
      len.toNat ≤ 240 → rest.length < len.toNat + 3 →
      Searched p ⟨0xC3 :: len :: rest, discarded⟩ ⟨0xC3 :: len :: rest, discarded⟩ []
  /-- A LEN above 240: the candidate is discarded at once, and the search resumes after its SYNC. -/
  | longLength {discarded : Nat} {len : Byte} {rest : List Byte} {r : Receiver} {found : List Instr} :
      240 < len.toNat → Searched p ⟨len :: rest, max discarded 2 - 1⟩ r found →
      Searched p ⟨0xC3 :: len :: rest, discarded⟩ r
        ((if discarded = 0 then .badLengthFrame p else .resynchronisingCandidateDiscard p) :: found)
  /-- An incorrect check: the candidate is discarded, and the search resumes after its SYNC. -/
  | wrongCheck {discarded : Nat} {len kind x y : Byte} {payload rest : List Byte} {r : Receiver}
      {found : List Instr} :
      payload.length = len.toNat → len.toNat ≤ 240 →
      [x, y] ≠ checkBytes (frameCheck (len :: kind :: payload)) →
      Searched p ⟨len :: kind :: (payload ++ x :: y :: rest), max discarded (payload.length + 5) - 1⟩ r
        found →
      Searched p ⟨0xC3 :: len :: kind :: (payload ++ x :: y :: rest), discarded⟩ r
        ((if discarded = 0 then .badCheckFrame p else .resynchronisingCandidateDiscard p) :: found)
  /-- A correct check, wherever the candidate starts: the frame is valid, and the search goes on behind
  it. -/
  | frame {discarded : Nat} {kind : Byte} {payload rest : List Byte} {r : Receiver}
      {found : List Instr} :
      payload.length ≤ 240 → Searched p ⟨rest, discarded - (payload.length + 5)⟩ r found →
      Searched p ⟨Frame.bytes ⟨kind, payload⟩ ++ rest, discarded⟩ r (.validFrame p kind payload :: found)

/-! ### Gates crossed by a report -/

/-- The lap times of the lines among the gates crossed at `now`, from the last line time on (R79). -/
def lapTimes (now : Nat) : Nat → List Gate → List Nat
  | _, [] => []
  | last, g :: rest =>
    if g.index = 0 then (now - last) :: lapTimes now now rest else lapTimes now last rest

/-- The GATE notices of the gates crossed at `now`: one for each LINE, with its lap time, and for each
SECTOR (R80). -/
def gateNotices (course : Course) (now : Nat) : Nat → List Gate → List Notice
  | _, [] => []
  | last, g :: rest =>
    match course.gateKind g.index with
    | .plain => gateNotices course now last rest
    | .sector => .gate g now none :: gateNotices course now last rest
    | .line => .gate g now (some (now - last)) :: gateNotices course now now rest

/-- The last line time after the gates crossed at `now` (R79). -/
def lastLineAfter (now last : Nat) (gates : List Gate) : Nat :=
  if gates.any (fun g => g.index = 0) then now else last

/-- Gates that follow one another along the chain from the gate after `floor` on (R10). -/
def Course.IsChain (course : Course) (laps : Nat) : Gate → List Gate → Prop
  | _, [] => True
  | floor, g :: rest => course.next laps floor = some g ∧ course.IsChain laps g rest

/-- What crossing the gates of a list in order makes of a car: the floor and the next gate, the lap list
and the last line time (R78, R79). -/
structure Car.Crossed (course : Course) (laps now : Nat) (gates : List Gate) (c d : Car) : Prop where
  chain : course.IsChain laps c.floorGate gates
  reached : ∀ g ∈ gates, course.position g ≤ d.distance
  floorGate : d.floorGate = gates.getLastD c.floorGate
  nextGate : d.nextGate = course.next laps d.floorGate
  beyond : ∀ g, d.nextGate = some g → d.distance < course.position g
  lapList : d.laps = c.laps ++ lapTimes now c.lastLine gates
  lastLine : d.lastLine = lastLineAfter now c.lastLine gates

end Sys2Proof.Machine
end

