-- ==== Sys2Proof/Certificates/Slice0/Obligations.lean ====
section
/-! DEFINITION. The statements for the provers. -/
open Sys2Proof Sys2Proof.Machine

/-! ### The machine as a whole -/

/-- A step takes the command at the front of the queue and performs it on the state with the queue's
rest; on an empty queue the part idles (log 2). -/
def Obligations.StepPerformsFrontCommand : Prop :=
  (∀ (c : Instr) (rest : List Instr) (s : State),
    step { s with pending := c :: rest } = exec c { s with pending := rest }) ∧
  (∀ s : State, step { s with pending := [] } = .next { s with pending := [] })

/-- Every command completes in every state and leaves the waiting commands; the tick count rises by 1 on
a tick, starts again from 0 at hardware reset and is otherwise left alone (R147). Three points are the
model's choice: that no command stops (log 1), that RACE_LIMIT is one tick or nothing (log 4), and that
hardware reset leaves the waiting commands (log 15). -/
def Obligations.EveryCommandCompletes : Prop :=
  ∀ (c : Instr) (s : State), ∃ t : State, exec c s = .next t ∧ t.pending = s.pending ∧
    (c = .tick → t.tickCount = s.tickCount + 1) ∧
    (c = .raceLimit → t.tickCount = s.tickCount + 1 ∨ t = s) ∧
    (c = .hardwareReset → t.tickCount = 0) ∧
    (c ≠ .tick → c ≠ .raceLimit → c ≠ .hardwareReset → t.tickCount = s.tickCount)

/-- Hardware reset sets every block to its reset values (R182); the waiting commands are the outside's
(log 15). -/
def Obligations.HardwareResetSetsResetValues : Prop :=
  ∀ s : State, ∃ t : State, exec .hardwareReset s = .next t ∧ t.pending = s.pending ∧
    (∀ p : Port, (t.port p).link = .down ∧ (t.port p).badChecks = 0 ∧
      (t.port p).requestQueue = [] ∧ (t.port p).responseQueue = [] ∧ (t.port p).noticeQueue = [] ∧
      (t.port p).overflow = false ∧ (t.port p).pushSlot = none ∧ (t.port p).pushInterval = 0 ∧
      (t.port p).pushTimer = none ∧ (t.port p).presence = .absent ∧ (t.port p).silence = .stopped ∧
      (t.port p).errorRecord = none ∧ (t.port p).fenced = false ∧ (t.port p).sending = none) ∧
    t.raaPointer = 7 ∧ t.race.phase = .idle ∧ t.race.number = 0 ∧ t.race.opener = none ∧
    t.race.settings.values = [3, 3000, 30000, 20000, 20000, 600000, 5000, 2000, 60000] ∧
    t.race.entryWindow = none ∧ t.race.gridWait = none ∧ t.race.countdown = none ∧
    t.race.closingWindow = none ∧ t.race.resultsHold = none ∧ t.race.holdSlot = none ∧
    (∀ p : Port, t.race.votes.get p = none ∧ t.race.releaseSet.get p = false ∧ t.car p = none) ∧
    t.race.resultsReason = none ∧ t.course = none ∧ t.runningOrder = [] ∧ t.finishList = [] ∧
    t.resultsTable = none ∧ t.raceClock = 0 ∧ t.tickCount = 0

/-- The part after hardware reset is sound in every respect that a step keeps. -/
def Obligations.ResetIsSound : Prop :=
  State.reset.PortsSound ∧ State.reset.RaceSound ∧ State.reset.HoldSound ∧ State.reset.OrderSound ∧
    State.reset.DistancesSound

/-! ### Invariants that every step keeps -/

/-- Queues stay in their bounds, a DOWN link stays empty, the silence timer goes with the presence, and a
fenced port is LATE or LOST with its record MULTIPLE: every step keeps this on every port. -/
def Obligations.StepKeepsPortsSound : Prop :=
  ∀ s t : State, s.PortsSound → step s = .next t → t.PortsSound

/-- The race record, the course, the car states, the votes, the release set and the timers stay as the
phase has them: every step keeps this. -/
def Obligations.StepKeepsRaceSound : Prop :=
  ∀ s t : State, s.RaceSound → step s = .next t → t.RaceSound

/-- The countdown is held exactly while some READY car's port is LATE, and a COASTING car's port is LATE:
every step keeps this. -/
def Obligations.StepKeepsHoldSound : Prop :=
  ∀ s t : State, s.RaceSound → s.HoldSound → step s = .next t → t.HoldSound

/-- The running order holds every car once in its groups, D never increases along the active group, and
finish times never decrease along the finish list: every step keeps this. -/
def Obligations.StepKeepsOrderSound : Prop :=
  ∀ s t : State, s.RaceSound → s.OrderSound → step s = .next t → t.OrderSound

/-- From the green on D lies between the floor gate and F and below the next gate, and a car is FINISHED
exactly when D is F: every step keeps this. -/
def Obligations.StepKeepsDistancesSound : Prop :=
  ∀ s t : State, s.RaceSound → s.DistancesSound → step s = .next t → t.DistancesSound

/-! ### The arbiter -/

/-- The arbiter grants the first port after the pointer, counting upward and wrapping, that has a race
request waiting; the pointer's own port is considered last (R61). A grant to a port that the arbiter does
not choose, or of a request that does not wait there, an answer to what is not at the head, and an expiry
or a race limit before its time leave the state as it is: that is the model's choice (log 1). -/
def Obligations.ArbiterGrantsNextInOrder : Prop :=
  (∀ s : State,
    (∀ p : Port, s.arbiterChoice = some p →
      (s.port p).raceRequest.isSome = true ∧
      ∀ q : Port, (s.port q).raceRequest.isSome = true →
        (p - s.raaPointer - 1).val ≤ (q - s.raaPointer - 1).val) ∧
    (s.arbiterChoice = none → ∀ q : Port, (s.port q).raceRequest = none)) ∧
  (∀ (s : State) (p : Port) (k : RequestKind) (c : Instr), (k, c) ∈ raceRequests p →
    (s.arbiterChoice = some p → ∀ r : Request, (s.port p).raceRequest = some r → r.kind ≠ k) →
    exec c s = .next s) ∧
  (∀ (s : State) (p : Port) (k : RequestKind) (c : Instr), (k, c) ∈ localRequests p →
    (∀ r : Request, (s.port p).head = some (.request r) → r.kind ≠ k) → exec c s = .next s) ∧
  (∀ (s : State) (p : Port),
    (∀ (kind : Byte) (arrival : Nat), (s.port p).head ≠ some (.unknown kind arrival)) →
    exec (.unknownFrameAnswer p) s = .next s) ∧
  (∀ s : State,
    ((s.race.phase = .forming → ∀ passed : Nat, s.race.entryWindow = some passed →
      passed < s.race.settings.entryWindow) → exec .entryWindowExpiry s = .next s) ∧
    (¬(s.race.phase = .grid ∧ s.race.gridWait = some 0) → exec .gridWaitExpiry s = .next s) ∧
    (¬(s.race.phase = .countdown ∧ s.race.countdown = some 0 ∧ s.race.holdSlot = none) →
      exec .countdownExpiry s = .next s) ∧
    (¬(s.race.phase = .finishing ∧ s.race.closingWindow = some 0) →
      exec .closingWindowExpiry s = .next s) ∧
    (¬(s.race.phase = .results ∧ s.race.resultsHold = some 0) →
      exec .resultsHoldExpiry s = .next s) ∧
    (s.NothingDue → ¬(s.race.phase.running = true ∧ s.race.settings.raceLimit ≤ s.raceClock + 1) →
      exec .raceLimit s = .next s) ∧
    ∀ p : Port,
      ((s.race.phase.running = true → ∀ castTime : Nat, s.race.votes.get p = some castTime →
        s.raceClock < castTime + 10000) → exec (.voteExpiry p) s = .next s) ∧
      ((s.port p).silence ≠ .first 0 → exec (.silenceFirstStageExpiry p) s = .next s) ∧
      ((s.port p).silence ≠ .second 0 → exec (.silenceSecondStageExpiry p) s = .next s) ∧
      ((s.port p).pushTimer ≠ some 0 → exec (.pushTimerExpiry p) s = .next s))

/-- A grant of one of the race requests, CAR_SETUP apart, touches the ports no more than this: the request
leaves its queue, one response is placed, notices are offered and push timers started or stopped; the
pointer is set to the granted port (R61). CAR_SETUP does the same when its reserved byte is zero. -/
def Obligations.RaceRequestsLeavePortsAlone : Prop :=
  ∀ (s : State) (p : Port) (k : RequestKind) (r : Request) (c : Instr),
    s.granted p k = some r → k.reservedNonzero r.payload = false →
    (k, c) ∈ [(.openRace, .openRace p), (.setRules, .setRules p), (.loadCourse, .loadCourse p),
      (.enter, .enter p), (.carSetup, .carSetup p), (.closeEntries, .closeEntries p),
      (.ready, .ready p), (.leave, .leave p), (.report, .report p), (.clearFlags, .clearFlags p),
      (.snapshot, .snapshot p), (.readLaps, .readLaps p), (.readResults, .readResults p),
      (.abortVote, .abortVote p), (.withdrawVote, .withdrawVote p)] →
    ∃ (t : State) (response : Response), exec c s = .next t ∧ s.GrantFrame p response t

/-- The refusals: each returns its result code alone and changes nothing but the queues and the pointer.
A fenced port's requests, CLEAR_ERRORS apart, are refused FENCED in their turn (R143, R63). In IDLE every
race request but OPEN_RACE and SNAPSHOT is refused NO_RACE (R4, R19, R24, R46, R48, R50, R51, R66, R88,
R109, R110, R122, R124). While the settings and the course are locked SET_RULES and LOAD_COURSE are
refused LOCKED (R12, R18). The further checks of each request follow in their order: OPEN_RACE (R21),
SET_RULES (R19), LOAD_COURSE (R4), ENTER (R46), CAR_SETUP (R48), CLOSE_ENTRIES (R24), READY (R50), LEAVE
(R51), REPORT (R66), CLEAR_FLAGS (R88) and ABORT_VOTE (R122). A request with a reserved byte that is not
zero brings BAD_FIELD besides, and is stated apart (R185). -/
def Obligations.RefusalsByFenceAndPhase : Prop :=
  (∀ (s : State) (p : Port) (k : RequestKind) (r : Request) (c : Instr),
    s.granted p k = some r → k.reservedNonzero r.payload = false → (s.port p).fenced = true →
    (k, c) ∈ raceRequests p →
    exec c s = .next (s.answered p (.bare k .fenced))) ∧
  (∀ (s : State) (p : Port) (k : RequestKind) (r : Request) (c : Instr),
    s.localRequest p k = some r → k.reservedNonzero r.payload = false → (s.port p).fenced = true →
    (k, c) ∈ [(.identify, .identify p), (.nop, .nop p), (.setPush, .setPush p)] →
    exec c s = .next (s.answeredLocally p (.bare k .fenced))) ∧
  (∀ (s : State) (p : Port) (k : RequestKind) (r : Request) (c : Instr),
    s.granted p k = some r → k.reservedNonzero r.payload = false → (s.port p).fenced = false →
    (k, c) ∈ raceRequests p →
    (s.race.phase = .idle → k ≠ .openRace → k ≠ .snapshot →
      exec c s = .next (s.answered p (.bare k .noRace))) ∧
    (s.race.phase ≠ .idle → k = .openRace →
      exec c s = .next (s.answered p (.bare k .raceExists))) ∧
    (s.race.phase ≠ .idle → s.race.phase ≠ .forming → k = .setRules ∨ k = .loadCourse →
      exec c s = .next (s.answered p (.bare k .locked))) ∧
    (s.race.phase = .forming → s.race.opener ≠ some p →
      k = .setRules ∨ k = .loadCourse ∨ k = .closeEntries →
      exec c s = .next (s.answered p (.bare k .notOpener))) ∧
    (s.race.phase = .forming → s.race.opener = some p →
      (k = .setRules → (∃ i < 9, (rulesMask r.payload).testBit i = true ∧
          (rulesValue r.payload i < (settingRange i).1 ∨ (settingRange i).2 < rulesValue r.payload i)) →
        exec c s = .next (s.answered p (.bare k .range))) ∧
      (k = .loadCourse → courseOf r.payload = none →
        exec c s = .next (s.answered p (.bare k .range))) ∧
      (k = .closeEntries → s.course = none →
        exec c s = .next (s.answered p (.bare k .notReady)))) ∧
    (s.race.phase ≠ .idle → s.race.phase ≠ .forming → k = .enter ∨ k = .closeEntries →
      exec c s = .next (s.answered p (.bare k .wrongPhase))) ∧
    (s.race.phase = .forming → k = .enter →
      (s.car p ≠ none → exec c s = .next (s.answered p (.bare k .alreadyEntered))) ∧
      (s.car p = none → s.course = none → exec c s = .next (s.answered p (.bare k .notReady))) ∧
      (∀ course : Course, s.car p = none → s.course = some course →
        course.checkValue ≠ enterCheck r.payload →
        exec c s = .next (s.answered p (.bare k .courseMismatch)))) ∧
    (s.race.phase ≠ .idle → s.car p = none →
      k ∈ [.carSetup, .ready, .leave, .report, .clearFlags, .abortVote] →
      exec c s = .next (s.answered p (.bare k .notEntered))) ∧
    (∀ car : Car, s.race.phase ≠ .idle → s.car p = some car →
      (k = .carSetup → car.standing = .ready →
        exec c s = .next (s.answered p (.bare k .locked))) ∧
      (k = .carSetup → car.standing ≠ .ready → s.race.phase ≠ .forming → s.race.phase ≠ .grid →
        exec c s = .next (s.answered p (.bare k .wrongPhase))) ∧
      (k = .carSetup → car.standing ≠ .ready → s.race.phase = .forming ∨ s.race.phase = .grid →
        setupInRange r.payload = false → exec c s = .next (s.answered p (.bare k .range))) ∧
      (k = .ready → s.race.phase ≠ .grid →
        exec c s = .next (s.answered p (.bare k .wrongPhase))) ∧
      (k = .ready → s.race.phase = .grid → car.standing = .ready →
        exec c s = .next (s.answered p (.bare k .alreadyEntered))) ∧
      (k = .leave → s.race.phase.running = true → car.standing.state ∈ [.finished, .retired] →
        exec c s = .next (s.answered p (.bare k .outOfRace))) ∧
      (k = .report ∨ k = .clearFlags → s.race.phase ∈ [.forming, .grid, .results] →
        exec c s = .next (s.answered p (.bare k .wrongPhase))) ∧
      (k = .report → s.race.phase ∈ [.countdown, .green, .finishing] →
        car.standing.state = .retired → exec c s = .next (s.answered p (.bare k .outOfRace))) ∧
      (k = .abortVote → s.race.phase.running = false →
        exec c s = .next (s.answered p (.bare k .wrongPhase))) ∧
      (k = .abortVote → s.race.phase.running = true → car.standing.state = .retired →
        exec c s = .next (s.answered p (.bare k .outOfRace)))))

/-! ### Forming a race -/

/-- OPEN_RACE in IDLE opens a race: the number advances, the port becomes the opener with the default
settings and its car at entry position 1, the entry window starts, push timers start, and the PHASE
notice precedes the opener's ENTRY notice (R21, R16, R156). -/
def Obligations.OpenRaceOpensARace : Prop :=
  ∀ (s : State) (p : Port) (r : Request),
    s.granted p .openRace = some r → (s.port p).fenced = false → s.RaceSound →
    s.race.phase = .idle →
    ∃ t : State, exec (.openRace p) s = .next t ∧
      t = { s with
        race := { s.race with
          number := if s.race.number < 255 then s.race.number + 1 else 1
          phase := .forming, opener := some p, settings := .default, entryWindow := some 0 }
        cars := t.cars, entryList := [p], raaPointer := p, ports := t.ports } ∧
      (∀ q : Port, t.car q = if q = p then some (Car.entry 1) else none) ∧
      s.GrantFrame p (.openRace t.race.number) t ∧
      (∀ q : Port,
        (((s.port q).offerIf (s.isPresentPort q)
          (.phase (.changed .forming .none) t.race.number)).offerIf (q = p)
            (.entry p .entered .none 1)).SameNotices (t.port q)) ∧
      (∀ q : Port, (t.port q).pushTimer =
        if (s.port q).pushInterval ≠ 0 ∧ (s.port q).link = .up then some (s.port q).pushInterval
        else (s.port q).pushTimer)

/-- An accepted SET_RULES applies exactly the settings its mask selects, and returns all nine. Where the
mask selects the entry window, the window then expires by its new length: at once, after the grant, if
that length has already passed since OPEN_RACE, so that no other grant comes between (R20). -/
def Obligations.SetRulesAppliesMaskedSettings : Prop :=
  ∀ (s : State) (p : Port) (r : Request),
    s.granted p .setRules = some r → (s.port p).fenced = false → s.race.phase = .forming →
    s.race.opener = some p → rulesInRange r.payload = true →
    ∃ (x : Settings) (u : State),
      (∀ i < 9, x.values.getD i 0 =
        if (rulesMask r.payload).testBit i then rulesValue r.payload i
        else s.race.settings.values.getD i 0) ∧
      u = { s.answered p (.setRules x) with race := { s.race with settings := x } } ∧
      ((rulesMask r.payload).testBit 2 = false → exec (.setRules p) s = .next u) ∧
      ((rulesMask r.payload).testBit 2 = true → exec (.setRules p) s = exec .entryWindowExpiry u) ∧
      (∀ passed, s.race.entryWindow = some passed → passed < x.entryWindow →
        exec (.setRules p) s = .next u) ∧
      (u.entryWindowDue = true ↔ ∃ passed, s.race.entryWindow = some passed ∧ x.entryWindow ≤ passed)

/-- A LOAD_COURSE that passes its checks replaces the course record whole and returns the check value over
its payload. Where the record held the same check value, or no other car is ENTERED, nothing else
changes. A changed check value withdraws every entered car but the opener's with reason COURSE_CHANGED, one
after another in ascending slot order, each with its ENTRY notice and the notices of its move, before the
response is placed; the opener's car is then alone in the entry list at entry position 1 (R5, R6, R52). -/
def Obligations.LoadCourseReplacesTheCourse : Prop :=
  ∀ (s : State) (p : Port) (r : Request) (c : Course),
    s.granted p .loadCourse = some r → (s.port p).fenced = false → s.race.phase = .forming →
    s.race.opener = some p → courseOf r.payload = some c →
    c.checkValue = courseCheck r.payload ∧ c.lapLength = wordAt r.payload 0 ∧
    ((s.course.map Course.checkValue = some c.checkValue ∨
        ∀ q : Port, q ≠ p → s.carState q ≠ .entered) →
      exec (.loadCourse p) s =
        .next { s.answered p (.loadCourse c.checkValue) with course := some c }) ∧
    (∀ own : Car, s.RaceSound → s.OrderSound → s.car p = some own →
      s.course.map Course.checkValue ≠ some c.checkValue →
      ∃ t : State, exec (.loadCourse p) s = .next t ∧
        t = { s with course := some c, cars := t.cars, entryList := [p], raaPointer := p,
                     ports := t.ports } ∧
        t.car p = some { own with entryPosition := 1 } ∧ (∀ q : Port, q ≠ p → t.car q = none) ∧
        s.GrantFrame p (.loadCourse c.checkValue) t) ∧
    (s.course.map Course.checkValue ≠ some c.checkValue →
      ∃ (others : List Port) (u : State),
        (∀ q : Port, q ∈ others ↔ q ≠ p ∧ s.carState q = .entered) ∧ others.Pairwise (· < ·) ∧
        ({ s.requestTaken p with course := some c } : State).WithdrawnEach .courseChanged others u ∧
        exec (.loadCourse p) s = .next (u.responsePlaced p (.loadCourse c.checkValue)))

/-- A course definition is accepted exactly when it meets the conditions of R3, and the course then holds
the lap length, the gates and the check value over the payload (R3, R5). -/
def Obligations.CourseDefinitionsAreChecked : Prop :=
  ∀ (payload : List Byte) (c : Course), courseOf payload = some c ↔
    ∃ gates : List GateEntry, gateEntries (payload.drop 5) = some gates ∧
      c = ⟨wordAt payload 0, gates, courseCheck payload⟩ ∧
      (1000 ≤ c.lapLength ∧ c.lapLength ≤ 4000000) ∧ (1 ≤ gates.length ∧ gates.length ≤ 32) ∧
      gates.head? = some ⟨0, .line⟩ ∧ (∀ g ∈ gates.tail, g.kind ≠ .line) ∧
      (∀ g ∈ gates, g.distance < c.lapLength) ∧
      (gates.map GateEntry.distance).Pairwise (· < ·)

/-- An accepted ENTER appends the car with its entry values, tells the race ports and returns the race
number and the entry position (R47, R44). -/
def Obligations.EnterAppendsTheCar : Prop :=
  ∀ (s : State) (p : Port) (r : Request) (c : Course),
    s.granted p .enter = some r → (s.port p).fenced = false → s.race.phase = .forming →
    s.car p = none → s.course = some c → c.checkValue = enterCheck r.payload →
    ∃ t : State, exec (.enter p) s = .next t ∧
      t = { s with cars := t.cars, entryList := s.entryList ++ [p], raaPointer := p,
                   ports := t.ports } ∧
      t.car p = some (Car.entry (s.entryList.length + 1)) ∧ s.OtherCars p t ∧
      s.GrantFrame p (.enter s.race.number (s.entryList.length + 1)) t ∧
      (∀ q : Port, ((s.port q).offerIf (s.isRacePort q || decide (q = p))
        (.entry p .entered .none (s.entryList.length + 1))).SameNotices (t.port q))

/-- An accepted CAR_SETUP applies exactly the class, tag and rate limit its mask selects, and raises an
ENTRY notice unless the mask is empty (R49). -/
def Obligations.CarSetupAppliesMaskedFields : Prop :=
  ∀ (s : State) (p : Port) (r : Request) (c : Car),
    s.granted p .carSetup = some r → (s.port p).fenced = false →
    s.race.phase = .forming ∨ s.race.phase = .grid → s.car p = some c → c.standing = .entered →
    setupInRange r.payload = true → byteAt r.payload 5 = 0 →
    ∃ (t : State) (d : Car), exec (.carSetup p) s = .next t ∧
      t = { s with cars := t.cars, raaPointer := p, ports := t.ports } ∧
      t.car p = some d ∧ s.OtherCars p t ∧
      d = { c with carClass := d.carClass, tag := d.tag, rateLimit := d.rateLimit } ∧
      d.carClass = (if (byteAt r.payload 0).testBit 0 then byteAt r.payload 1 else c.carClass) ∧
      d.tag = (if (byteAt r.payload 0).testBit 1 then
        ⟨r.payload.getD 2 0, r.payload.getD 3 0, r.payload.getD 4 0⟩ else c.tag) ∧
      d.rateLimit = (if (byteAt r.payload 0).testBit 2 then halfAt r.payload 6 else c.rateLimit) ∧
      s.GrantFrame p (.carSetup d.carClass d.tag d.rateLimit) t ∧
      (∀ q : Port, ((s.port q).offerIf
        (s.isRacePort q && decide ((byteAt r.payload 0).testBit 0 = true ∨
          (byteAt r.payload 0).testBit 1 = true ∨ (byteAt r.payload 0).testBit 2 = true))
        (.entry p .setupChanged .none c.entryPosition)).SameNotices (t.port q))

/-- CLOSE_ENTRIES from the opener with a course loaded moves the race to GRID: the entry window stops, the
opener becomes absent, the grid wait starts, and every car keeps its place (R24). -/
def Obligations.CloseEntriesMovesToGrid : Prop :=
  ∀ (s : State) (p : Port) (r : Request),
    s.granted p .closeEntries = some r → (s.port p).fenced = false → s.race.phase = .forming →
    s.race.opener = some p → s.course ≠ none →
    ∃ t : State, exec (.closeEntries p) s = .next t ∧
      t = { s with
        race := { s.race with phase := .grid, opener := none, entryWindow := none,
                              gridWait := some s.race.settings.gridWait }
        raaPointer := p, ports := t.ports } ∧
      s.GrantFrame p (.closeEntries s.entryList.length) t ∧
      (∀ q : Port, ((s.port q).offerIf (s.isPresentPort q)
        (.phase (.changed .grid .none) s.race.number)).SameNotices (t.port q))

/-- READY makes the car READY and tells the race ports with a CAR_STATE notice; while another car is not
READY the race stays in GRID, and with the last one it enters COUNTDOWN, running from the countdown length,
or held with all of it saved when some READY car's port is LATE, with its PHASE notices after the
CAR_STATE notice (R50, R27, R116). -/
def Obligations.ReadyMayStartTheCountdown : Prop :=
  ∀ (s : State) (p : Port) (r : Request) (c : Car),
    s.granted p .ready = some r → (s.port p).fenced = false → s.race.phase = .grid →
    s.car p = some c → c.standing = .entered →
    ∃ t u : State, exec (.ready p) s = .next t ∧
      t = { s with cars := t.cars, race := t.race, raaPointer := p, ports := t.ports } ∧
      t.car p = some { c with standing := .ready } ∧ s.OtherCars p t ∧
      s.GrantFrame p (.ready (t.countCars fun x => x = .ready) t.carCount) t ∧
      u = { s.requestTaken p with cars := t.cars, ports := u.ports } ∧
      (∀ q : Port, u.port q = ((s.requestTaken p).port q).offerAll
        (noticeIf (s.isRacePort q) (.carState p .ready .none))) ∧
      ((∃ q : Port, q ≠ p ∧ s.car q ≠ none ∧ s.carState q ≠ .ready) →
        t = u.responsePlaced p (.ready (t.countCars fun x => x = .ready) t.carCount)) ∧
      ((∀ q : Port, q ≠ p → s.car q ≠ none → s.carState q = .ready) →
        ∃ v : State, u.EnteredCountdown v ∧
          t = v.responsePlaced p (.ready (t.countCars fun x => x = .ready) t.carCount))

/-! ### Leaving -/

/-- LEAVE in FORMING, GRID and COUNTDOWN withdraws the car with reason LEFT: the race ports are told, it
becomes EMPTY and leaves the entry list, each car behind it moves up by one place and is told its new
position, and the tests of the phase follow (R53, R52, R44). In FORMING, when it is the opener's, the
lowest-numbered port whose car is ENTERED becomes the opener, or the race is dissolved if there is none
(R23). In GRID and COUNTDOWN the race is dissolved when no car is left (R29); in GRID it enters COUNTDOWN
when every car left is READY (R27); in COUNTDOWN the hold test is made (R114). -/
def Obligations.LeaveWithdrawsInForming : Prop :=
  (∀ (s : State) (p : Port) (r : Request) (c : Car),
    s.granted p .leave = some r → (s.port p).fenced = false →
    s.race.phase = .forming ∨ s.race.phase = .grid ∨ s.race.phase = .countdown → s.car p = some c →
    ∃ u v : State, (s.requestTaken p).Withdrawn p .left c u ∧ u.AfterWithdrawal p v ∧
      exec (.leave p) s = .next (v.responsePlaced p (.leave .withdrawn))) ∧
  (∀ (s : State) (p : Port) (r : Request) (c : Car),
      s.granted p .leave = some r → (s.port p).fenced = false → s.race.phase = .forming →
      s.car p = some c →
      ∃ t : State, exec (.leave p) s = .next t ∧ s.GrantFrame p (.leave .withdrawn) t ∧
        ((s.race.opener ≠ some p ∨ ∃ q : Port, q ≠ p ∧ s.carState q = .entered) →
          t = { s with cars := t.cars, entryList := s.entryList.filter (fun q => q ≠ p),
                       race := t.race, raaPointer := p, ports := t.ports } ∧
          t.car p = none ∧
          (∀ q : Port, q ≠ p → t.car q = (s.car q).map fun d =>
            if c.entryPosition < d.entryPosition then
              { d with entryPosition := d.entryPosition - 1 }
            else d)) ∧
        (s.race.opener ≠ some p → t.race = s.race) ∧
        (s.race.opener = some p → ∀ q : Port, q ≠ p → s.carState q = .entered →
          (∀ x : Port, x < q → x ≠ p → s.carState x ≠ .entered) →
          t.race = { s.race with opener := some q }) ∧
        (s.race.opener = some p → (∀ q : Port, q ≠ p → s.carState q ≠ .entered) →
          t.race = { RaceRecord.reset with number := s.race.number, settings := s.race.settings } ∧
          t.course = none ∧ t.entryList = [] ∧ t.raceClock = 0 ∧ ∀ q : Port, t.car q = none))

/-- LEAVE of a running car retires it with reason LEFT at the race clock, with every other field kept: the
race ports are told, it moves into the RETIRED group with the notices of the move, its vote is removed,
and a VOTE notice follows (R55, R54, R98, R128). Then come the end tests: with no car running the race
enters RESULTS with reason ALL_FINISHED or ALL_RETIRED, with the threshold met with reason ABORTED, and
otherwise it goes on (R34, R126). -/
def Obligations.LeaveRetiresARunningCar : Prop :=
  (∀ (s : State) (p : Port) (r : Request) (c : Car),
    s.granted p .leave = some r → (s.port p).fenced = false → s.race.phase.running = true →
    s.car p = some c → c.standing.running = true →
    ∃ u v : State, (s.requestTaken p).Retired p .left u ∧ u.EndTested false v ∧
      exec (.leave p) s = .next (v.responsePlaced p (.leave .retired))) ∧
  (∀ (s : State) (p q : Port) (r : Request) (c d : Car),
      s.granted p .leave = some r → (s.port p).fenced = false → s.race.phase.running = true →
      s.car p = some c → c.standing.running = true →
      q ≠ p → s.car q = some d → d.standing.running = true →
      2 * (s.dropVote p).voteCount ≤ s.eligibleCount - 1 →
      ∃ t : State, exec (.leave p) s = .next t ∧
        t = { s with
          cars := t.cars
          race := { s.race with votes := s.race.votes.set p none }
          activeGroup := s.activeGroup.filter (fun x => x ≠ p)
          retiredGroup := s.placeByDistance p s.retiredGroup
          raaPointer := p, ports := t.ports } ∧
        t.car p = some { c with standing := .retired .left s.raceClock } ∧ s.OtherCars p t ∧
        s.GrantFrame p (.leave .retired) t)

/-- A retiring car stands immediately after the last retired car whose D is at least its own, or at the
head of the RETIRED group (R98); a reinserted car is placed in the active group the same way (R94). -/
def Obligations.PlacingByDistance : Prop :=
  ∀ (s : State) (p : Port) (group : List Port), ∃ ahead behind : List Port,
    group = ahead ++ behind ∧ s.placeByDistance p group = ahead ++ p :: behind ∧
    (∀ q ∈ behind, s.distance q < s.distance p) ∧
    (∀ q, ahead.getLast? = some q → s.distance p ≤ s.distance q)

/-- LEAVE in RESULTS adds the port to the release set; while another race port is still waited for, the
race stays in RESULTS, and with the last one it returns to IDLE with a PHASE notice of reason RELEASED,
before the response is placed (R56, R37, R38, R40). -/
def Obligations.LeaveReleasesTheResults : Prop :=
  ∀ (s : State) (p : Port) (r : Request) (c : Car),
    s.granted p .leave = some r → (s.port p).fenced = false → s.race.phase = .results →
    s.car p = some c →
    ∃ t : State, exec (.leave p) s = .next t ∧ s.GrantFrame p (.leave .released) t ∧
      ((∃ q : Port, q ≠ p ∧ s.isRacePort q = true ∧ s.race.releaseSet.get q = false) →
        t = { s.answered p (.leave .released) with
          race := { s.race with releaseSet := s.race.releaseSet.set p true } }) ∧
      ((∀ q : Port, q ≠ p → s.isRacePort q = true → s.race.releaseSet.get q = true) →
        t.race = { RaceRecord.reset with number := s.race.number, settings := s.race.settings } ∧
        (∀ q : Port, t.car q = none) ∧ t.course = none ∧ t.resultsTable = none ∧
        t.entryList = [] ∧ t.activeGroup = [] ∧ t.retiredGroup = [] ∧ t.finishList = [] ∧
        t.raceClock = 0 ∧
        ∃ v : State, (s.requestTaken p).ReturnedToIdle .released v ∧
          t = v.responsePlaced p (.leave .released))

/-! ### Reports -/

/-- A REPORT for a READY car in COUNTDOWN credits no distance; a positive delta sets JUMP_START, applies
the penalty once and raises a FLAG notice if the flag was clear; a pose is stored (R67). -/
def Obligations.CountdownReportMayJumpStart : Prop :=
  ∀ (s : State) (p : Port) (r : Request) (c : Car),
    s.granted p .report = some r → (s.port p).fenced = false → s.race.phase = .countdown →
    s.car p = some c → c.standing = .ready →
    ∃ (t : State) (d : Car) (ack : ReportAck), exec (.report p) s = .next t ∧
      t = { s with cars := t.cars, raaPointer := p, ports := t.ports } ∧
      t.car p = some d ∧ s.OtherCars p t ∧
      d = { c with sticky := d.sticky, penalty := d.penalty, pose := d.pose } ∧
      d.sticky = { c.sticky with
        jumpStart := c.sticky.jumpStart || decide (0 < reportDelta r.payload) } ∧
      d.penalty = (if 0 < reportDelta r.payload ∧ c.penalty = 0
        then s.race.settings.jumpStartPenalty else c.penalty) ∧
      d.pose = (if r.payload.length = 16 then some ⟨r.payload.drop 4, r.arrival⟩ else c.pose) ∧
      s.GrantFrame p (.report ack) t ∧
      ack = ⟨.ready, c.floorGate.lap, s.position p, c.status, d.sticky, d.penalty, c.distance,
        c.distanceChange, s.shownTime⟩ ∧
      (∀ q : Port, ((s.port q).offerIf (decide (q = p ∧ 0 < reportDelta r.payload ∧
        c.sticky.jumpStart = false)) (.flag d.penalty)).SameNotices (t.port q))

/-- A REPORT of 0 for a RACING car clears REVERSING, RATE_LIMITED and AT_FLOOR; D, the reverse run,
WRONG_WAY, the gates and the running order stay, and the report time and a pose are taken (R76, R82,
R83). -/
def Obligations.ZeroReportClearsMovementFlags : Prop :=
  ∀ (s : State) (p : Port) (r : Request) (c : Car) (course : Course),
    s.granted p .report = some r → (s.port p).fenced = false → s.race.phase.running = true →
    s.car p = some c → c.standing = .racing → s.course = some course →
    reportDelta r.payload = 0 →
    exec (.report p) s = .next ((s.answered p (.report ⟨.racing, c.floorGate.lap, s.position p,
      { c.status with reversing := false, rateLimited := false, atFloor := false }, c.sticky,
      c.penalty, c.distance, c.distanceChange, s.raceClock⟩)).modifyCar p fun x =>
        { x with
          status := { x.status with reversing := false, rateLimited := false, atFloor := false }
          lastReport := s.raceClock
          pose := if r.payload.length = 16 then some ⟨r.payload.drop 4, r.arrival⟩ else x.pose })

/-- A reverse REPORT for a RACING car: the delta is held to the rate allowance, the reverse run grows by
all of it and saturates, D falls no further than the floor gate, and WRONG_WAY is set when the run
reaches the threshold. A WRONG_WAY notice is raised when it was clear, and the POSITION and LEADER notices
of the move follow (R72, R73, R74, R100, R101). -/
def Obligations.ReverseReportIsHeldAtTheFloor : Prop :=
  ∀ (s : State) (p : Port) (r : Request) (c : Car) (course : Course) (back : Nat),
    s.granted p .report = some r → (s.port p).fenced = false → s.race.phase.running = true →
    s.car p = some c → c.standing = .racing →
    s.course = some course → reportDelta r.payload < 0 → 1 ≤ c.rateLimit →
    back = min (reportDelta r.payload).natAbs
      (c.rateLimit * max 1 (s.raceClock - c.lastReport)) →
    ∃ (t : State) (d : Car) (ack : ReportAck), exec (.report p) s = .next t ∧
      t = { s with cars := t.cars, activeGroup := t.activeGroup, raaPointer := p,
                   ports := t.ports } ∧
      t.car p = some d ∧ s.OtherCars p t ∧
      d = { c with
        distance := max (course.position c.floorGate) (c.distance - back)
        reverseRun := min 0xFFFFFFFF (c.reverseRun + back)
        status := ⟨true, decide (back < (reportDelta r.payload).natAbs),
          decide (c.distance < course.position c.floorGate + back),
          c.status.wrongWay || decide (s.race.settings.wrongWayThreshold ≤ d.reverseRun)⟩
        sticky := { c.sticky with
          wrongWaySeen := c.sticky.wrongWaySeen || (d.status.wrongWay && !c.status.wrongWay)
          rateSeen := c.sticky.rateSeen || d.status.rateLimited
          floorSeen := c.sticky.floorSeen || d.status.atFloor }
        lastReport := s.raceClock
        distanceChange := if d.distance = c.distance then c.distanceChange else s.raceClock
        pose := if r.payload.length = 16 then some ⟨r.payload.drop 4, r.arrival⟩ else c.pose } ∧
      t.activeGroup = (if d.distance = c.distance then s.activeGroup
        else t.placeByDistance p (s.activeGroup.filter (fun q => q ≠ p))) ∧
      s.GrantFrame p (.report ack) t ∧
      ack = ⟨.racing, c.floorGate.lap, t.position p, d.status, d.sticky, c.penalty, d.distance,
        d.distanceChange, s.raceClock⟩ ∧
      (s.OrderSound → ∀ q : Port, ((s.port q).offerAll
        (noticeIf (decide (q = p) && d.status.wrongWay && !c.status.wrongWay)
            (.wrongWay true d.reverseRun) ++
          moveNotices (s.isRacePort q) q s.runningOrder t.runningOrder)).SameNotices (t.port q))

/-- A forward REPORT that does not reach F: the delta is held to the rate allowance, D rises by it, the
reverse run and WRONG_WAY end, and the car crosses the gates up to its new D along the chain, with one lap
time more for each line crossed: the race clock less the last line time, and 0 for further lines of the
same report (R72, R75, R78, R79, R94). The own port is told of the end of WRONG_WAY with the run it had and of
each LINE and SECTOR, and the POSITION and LEADER notices of the move follow (R80, R100, R101). -/
def Obligations.ForwardReportCrossesGates : Prop :=
  ∀ (s : State) (p : Port) (r : Request) (c : Car) (course : Course) (ahead : Nat),
    s.granted p .report = some r → (s.port p).fenced = false → s.race.phase.running = true →
    s.DistancesSound → s.car p = some c → c.standing = .racing →
    s.course = some course → 0 < reportDelta r.payload → 1 ≤ c.rateLimit →
    ahead = min (reportDelta r.payload).natAbs
      (c.rateLimit * max 1 (s.raceClock - c.lastReport)) →
    c.distance + ahead < course.finish s.race.settings.laps →
    ∃ (t : State) (d : Car) (ack : ReportAck), exec (.report p) s = .next t ∧
      t = { s with cars := t.cars, activeGroup := t.activeGroup, raaPointer := p,
                   ports := t.ports } ∧
      t.car p = some d ∧ s.OtherCars p t ∧
      d = { c with
        distance := c.distance + ahead, reverseRun := 0
        status := ⟨false, decide (ahead < (reportDelta r.payload).natAbs), false, false⟩
        sticky := { c.sticky with rateSeen := c.sticky.rateSeen || d.status.rateLimited }
        lastReport := s.raceClock, distanceChange := s.raceClock
        floorGate := d.floorGate, nextGate := d.nextGate, laps := d.laps, lastLine := d.lastLine
        pose := if r.payload.length = 16 then some ⟨r.payload.drop 4, r.arrival⟩ else c.pose } ∧
      d.DistanceSound course s.race.settings.laps ∧ c.laps <+: d.laps ∧
      t.activeGroup = t.placeByDistance p (s.activeGroup.filter (fun q => q ≠ p)) ∧
      s.GrantFrame p (.report ack) t ∧
      ack = ⟨.racing, d.floorGate.lap, t.position p, d.status, d.sticky, c.penalty, d.distance,
        s.raceClock, s.raceClock⟩ ∧
      ∃ gates : List Gate, c.Crossed course s.race.settings.laps s.raceClock gates d ∧
        (s.OrderSound → ∀ q : Port, ((s.port q).offerAll
          ((if q = p then noticeIf c.status.wrongWay (.wrongWay false c.reverseRun) ++
              gateNotices course s.raceClock c.lastLine gates else []) ++
            moveNotices (s.isRacePort q) q s.runningOrder t.runningOrder)).SameNotices (t.port q))

/-- A forward REPORT that reaches F finishes the car, in GREEN and in FINISHING: D is F, the last gates are
crossed with their lap times and notices, the finish time is the race clock, and the car joins the end of
the finish list with a FINISH notice and the notices of its move (R81, R79, R80, R97, R100, R101, R84).
Then come the end tests: with no car running the race enters RESULTS with reason ALL_FINISHED, with the
threshold met with reason ABORTED, and as the first finish in GREEN with reason CLOSED when the closing
window is 0; with a closing window above 0 the first finish takes it to FINISHING (R34, R126, R32). The
response shows the car after all of it. -/
def Obligations.FirstFinishEntersFinishing : Prop :=
  (∀ (s : State) (p : Port) (r : Request) (c : Car) (course : Course) (ahead : Nat),
    s.granted p .report = some r → (s.port p).fenced = false → s.race.phase.running = true →
    s.DistancesSound → s.car p = some c → c.standing = .racing →
    s.course = some course → 0 < reportDelta r.payload → 1 ≤ c.rateLimit →
    ahead = min (reportDelta r.payload).natAbs
      (c.rateLimit * max 1 (s.raceClock - c.lastReport)) →
    course.finish s.race.settings.laps ≤ c.distance + ahead →
    ∃ (u v : State) (d : Car) (gates : List Gate) (ack : ReportAck),
      exec (.report p) s = .next (v.responsePlaced p (.report ack)) ∧
      u = { s.requestTaken p with
        cars := u.cars
        finishList := s.finishList ++ [⟨p, s.raceClock⟩]
        activeGroup := s.activeGroup.filter (fun x => x ≠ p)
        ports := u.ports } ∧
      u.car p = some d ∧ s.OtherCars p u ∧
      d = { c with
        standing := .finished s.raceClock
        distance := course.finish s.race.settings.laps, reverseRun := 0
        status := ⟨false, decide (ahead < (reportDelta r.payload).natAbs), false, false⟩
        sticky := { c.sticky with rateSeen := c.sticky.rateSeen || d.status.rateLimited }
        lastReport := s.raceClock, distanceChange := s.raceClock
        floorGate := ⟨s.race.settings.laps + 1, 0⟩, nextGate := none
        laps := d.laps, lastLine := d.lastLine
        pose := if r.payload.length = 16 then some ⟨r.payload.drop 4, r.arrival⟩ else c.pose } ∧
      d.laps.length = s.race.settings.laps ∧
      c.Crossed course s.race.settings.laps s.raceClock gates d ∧
      (∀ q : Port, ((s.requestTaken p).port q).SameButNotices (u.port q)) ∧
      (s.OrderSound → ∀ q : Port, u.port q = ((s.requestTaken p).port q).offerAll
        ((if q = p then noticeIf c.status.wrongWay (.wrongWay false c.reverseRun) ++
            gateNotices course s.raceClock c.lastLine gates else []) ++
          noticeIf (s.isRacePort q) (.finish p (s.finishList.length + 1) s.raceClock) ++
          moveNotices (s.isRacePort q) q s.runningOrder u.runningOrder)) ∧
      u.EndTested true v ∧
      (v.car p = some d → ack = ⟨.finished, s.race.settings.laps, v.position p, d.status, d.sticky,
        c.penalty, d.distance, d.distanceChange, s.raceClock⟩)) ∧
  (∀ (s : State) (p q : Port) (r : Request) (c e : Car) (course : Course) (ahead : Nat),
      s.granted p .report = some r → (s.port p).fenced = false → s.race.phase = .green →
      s.DistancesSound → s.car p = some c → c.standing = .racing →
      s.course = some course → 0 < reportDelta r.payload → 1 ≤ c.rateLimit →
      ahead = min (reportDelta r.payload).natAbs
        (c.rateLimit * max 1 (s.raceClock - c.lastReport)) →
      course.finish s.race.settings.laps ≤ c.distance + ahead →
      q ≠ p → s.car q = some e → e.standing.running = true → s.thresholdMet = false →
      0 < s.race.settings.closingWindow →
      ∃ (t : State) (d : Car) (ack : ReportAck), exec (.report p) s = .next t ∧
        t = { s with
          cars := t.cars
          race := { s.race with phase := .finishing,
                                closingWindow := some s.race.settings.closingWindow }
          finishList := s.finishList ++ [⟨p, s.raceClock⟩]
          activeGroup := s.activeGroup.filter (fun x => x ≠ p)
          raaPointer := p, ports := t.ports } ∧
        t.car p = some d ∧ s.OtherCars p t ∧
        d.standing = .finished s.raceClock ∧ d.distance = course.finish s.race.settings.laps ∧
        d.floorGate = ⟨s.race.settings.laps + 1, 0⟩ ∧ d.nextGate = none ∧
        d.laps.length = s.race.settings.laps ∧ d.penalty = c.penalty ∧
        d.lastReport = s.raceClock ∧
        s.GrantFrame p (.report ack) t ∧
        ack = ⟨.finished, s.race.settings.laps, t.position p, d.status, d.sticky, c.penalty,
          d.distance, d.distanceChange, s.raceClock⟩)

/-- A REPORT for a COASTING car changes nothing in the race, and one for a FINISHED car stores its pose and
nothing else; both are answered OK with the car as it stands (R70, R69). -/
def Obligations.CoastingAndFinishedReports : Prop :=
  ∀ (s : State) (p : Port) (r : Request) (c : Car),
    s.granted p .report = some r → (s.port p).fenced = false → s.race.phase.running = true →
    s.car p = some c →
    (c.standing = .coasting →
      exec (.report p) s = .next (s.answered p (.report ⟨.coasting, c.floorGate.lap, s.position p,
        c.status, c.sticky, c.penalty, c.distance, c.distanceChange, s.raceClock⟩))) ∧
    (∀ time : Nat, c.standing = .finished time →
      exec (.report p) s = .next ((s.answered p (.report ⟨.finished, s.race.settings.laps,
        s.position p, c.status, c.sticky, c.penalty, c.distance, c.distanceChange,
        s.raceClock⟩)).modifyCar p fun x =>
          { x with pose := if r.payload.length = 16 then some ⟨r.payload.drop 4, r.arrival⟩
                           else x.pose }))

/-- CLEAR_FLAGS clears the sticky flags that the mask selects and changes no other field, raises no notice
and returns the flags as they stand (R89). -/
def Obligations.ClearFlagsClearsSelectedFlags : Prop :=
  ∀ (s : State) (p : Port) (r : Request) (c : Car),
    s.granted p .clearFlags = some r → (s.port p).fenced = false → s.car p = some c →
    s.race.phase = .countdown ∨ s.race.phase = .green ∨ s.race.phase = .finishing →
    ∃ f : StickyFlags,
      f = ⟨c.sticky.wrongWaySeen && !(byteAt r.payload 0).testBit 0,
        c.sticky.rateSeen && !(byteAt r.payload 0).testBit 1,
        c.sticky.floorSeen && !(byteAt r.payload 0).testBit 2,
        c.sticky.jumpStart && !(byteAt r.payload 0).testBit 3⟩ ∧
      exec (.clearFlags p) s =
        .next ((s.answered p (.clearFlags f)).modifyCar p fun x => { x with sticky := f })

/-! ### Reading -/

/-- SNAPSHOT is answered in every phase with the whole race state as it stands, and changes nothing: the
header, and one entry for each car of the running order in that order, with its pose and the pose's age
(R151, R152, R153, R150). What it carries is the capture that a push takes too. -/
def Obligations.SnapshotCapturesTheRace : Prop :=
  ∀ (s : State) (p : Port) (r : Request),
    s.granted p .snapshot = some r → (s.port p).fenced = false → s.OrderSound →
    ∃ x : Snapshot, exec (.snapshot p) s = .next (s.answered p (.snapshot x)) ∧ x = s.capture ∧
      x.raceNumber = s.race.number ∧ x.phase = s.race.phase ∧
      x.held = s.race.holdSlot.isSome ∧ x.resultsReason = s.race.resultsReason ∧
      x.time = (match s.race.phase with
        | .idle | .forming | .grid => 0
        | .countdown => s.race.holdSlot.getD (s.race.countdown.getD 0)
        | .green | .finishing | .results => s.raceClock) ∧
      x.cars.map SnapshotCar.slot = s.runningOrder ∧
      (∀ (i : Nat) (e : SnapshotCar), x.cars[i]? = some e → ∃ c : Car, s.car e.slot = some c ∧
        e.position = i + 1 ∧ e.state = c.standing.state ∧ e.distance = c.distance ∧
        e.status = c.status ∧ e.sticky = c.sticky ∧ e.carClass = c.carClass ∧ e.tag = c.tag ∧
        e.currentLap = (if c.standing.state = .finished then s.race.settings.laps
          else c.floorGate.lap) ∧
        e.poseAge = (match c.pose with
          | none => 65535
          | some pose => min (s.tickCount - pose.arrival) 65534) ∧
        e.pose = (match c.pose with
          | none => [0, 0, 0, 0, 0, 0, 0, 0, 0, 0, 0, 0]
          | some pose => pose.bytes) ∧
        e = s.snapshotCar c e.slot (i + 1))

/-- The age of a pose in a snapshot is the tick count at capture less the pose's arrival tick, at most
65,534; an absent pose has age 65,535 and twelve zero bytes (R150). -/
def Obligations.PoseAgeInSnapshots : Prop :=
  ∀ (s : State) (c : Car) (slot : Port) (position : Nat),
    (∀ q : Pose, c.pose = some q →
      (s.snapshotCar c slot position).pose = q.bytes ∧
      (s.tickCount - q.arrival ≤ 65534 →
        (s.snapshotCar c slot position).poseAge = s.tickCount - q.arrival) ∧
      (65534 < s.tickCount - q.arrival → (s.snapshotCar c slot position).poseAge = 65534)) ∧
    (c.pose = none →
      (s.snapshotCar c slot position).poseAge = 65535 ∧
      (s.snapshotCar c slot position).pose = [0, 0, 0, 0, 0, 0, 0, 0, 0, 0, 0, 0])

/-- READ_LAPS is refused by the first check that fails, and otherwise returns the slot, the total, the
first index, and up to 50 lap times from it; it changes nothing (R110, R111). -/
def Obligations.ReadLapsReturnsLapTimes : Prop :=
  ∀ (s : State) (p : Port) (r : Request), s.granted p .readLaps = some r →
    exec (.readLaps p) s = .next (s.answered p (
      if (s.port p).fenced then .bare .readLaps .fenced
      else match s.race.phase with
        | .idle => .bare .readLaps .noRace
        | .forming | .grid | .countdown => .bare .readLaps .wrongPhase
        | .green | .finishing | .results =>
          if h : byteAt r.payload 0 < 8 then
            match s.car ⟨byteAt r.payload 0, h⟩ with
            | none => .bare .readLaps .range
            | some c =>
              if byteAt r.payload 1 ≤ c.laps.length then
                .readLaps ⟨byteAt r.payload 0, h⟩ c.laps.length (byteAt r.payload 1)
                  ((c.laps.drop (byteAt r.payload 1)).take 50)
              else .bare .readLaps .range
          else .bare .readLaps .range))

/-- READ_RESULTS is refused FENCED, NO_RACE or WRONG_PHASE in that order, and otherwise returns the whole
results table; it changes nothing (R109). -/
def Obligations.ReadResultsReturnsTheTable : Prop :=
  ∀ (s : State) (p : Port) (r : Request), s.granted p .readResults = some r →
    ((s.port p).fenced = true →
      exec (.readResults p) s = .next (s.answered p (.bare .readResults .fenced))) ∧
    ((s.port p).fenced = false → s.race.phase = .idle →
      exec (.readResults p) s = .next (s.answered p (.bare .readResults .noRace))) ∧
    ((s.port p).fenced = false → s.race.phase ≠ .idle → s.race.phase ≠ .results →
      exec (.readResults p) s = .next (s.answered p (.bare .readResults .wrongPhase))) ∧
    (∀ table : ResultsTable, (s.port p).fenced = false → s.race.phase = .results →
      s.resultsTable = some table →
      exec (.readResults p) s = .next (s.answered p (.readResults table)))

/-- The results table holds one entry for each car: the FINISHED band by total time, from least to
greatest, with cars of equal total time in the order of the finish list, then the STOPPED band in the
order of the active group, then the RETIRED band in the order of its group; the positions count from 1
(R106, R107). Each entry gives the car as RESULTS leaves it: its state, its laps, its D, its finish time
with the penalty added, its best lap, and its retire reason and time (R108). -/
def Obligations.FinishedBandByTotalTime : Prop :=
  (∀ (s : State) (l : List FinishEntry),
    (s.byTotal l).Perm l ∧
    (s.byTotal l).Pairwise (fun e f => e.time + s.penalty e.slot ≤ f.time + s.penalty f.slot) ∧
    ∀ total : Nat, (s.byTotal l).filter (fun e => e.time + s.penalty e.slot = total) =
      l.filter (fun e => e.time + s.penalty e.slot = total)) ∧
  (∀ (s : State) (reason : Reason) (table : ResultsTable),
    s.OrderSound → s.race.phase.running = true → table = (s.stopRace reason).buildResults reason →
    table.reason = reason ∧
    table.entries.map ResultEntry.slot =
      (s.byTotal s.finishList).map FinishEntry.slot ++ s.activeGroup ++ s.retiredGroup ∧
    ∀ (i : Nat) (e : ResultEntry), table.entries[i]? = some e →
      ∃ c : Car, s.car e.slot = some c ∧ e.position = i + 1 ∧
        e.state = (if c.standing.running then .stopped else c.standing.state) ∧
        e.lapsCompleted = c.laps.length ∧ e.distance = c.distance ∧ e.penalty = c.penalty ∧
        (∀ time : Nat, c.standing = .finished time →
          e.finishTime = some time ∧ e.totalTime = some (time + c.penalty)) ∧
        (e.state ≠ .finished → e.finishTime = none ∧ e.totalTime = none) ∧
        (c.laps = [] → e.bestLap = none) ∧
        (c.laps ≠ [] → ∃ best ∈ c.laps, e.bestLap = some best ∧ ∀ lap ∈ c.laps, best ≤ lap) ∧
        (∀ (why : Reason) (time : Nat), c.standing = .retired why time →
          e.retireReason = some why ∧ e.retireTime = some time) ∧
        (e.state ≠ .retired → e.retireReason = none ∧ e.retireTime = none))

/-! ### Votes -/

/-- An accepted ABORT_VOTE casts or renews the port's vote at the race clock, with a VOTE notice for a new
one; when twice the vote count exceeds the eligible count the race enters RESULTS with reason ABORTED,
its PHASE notice after the VOTE notice and its release test made, and otherwise it goes on; the response
carries the counts of the test and the phase after it (R123, R126, R127, R36, R37). -/
def Obligations.AbortVoteCountsTowardTheThreshold : Prop :=
  ∀ (s : State) (p : Port) (r : Request) (c : Car) (cast : State),
    s.granted p .abortVote = some r → (s.port p).fenced = false → s.race.phase.running = true →
    s.car p = some c → c.standing.eligible = true →
    cast = s.modifyRace (fun x => { x with votes := x.votes.set p (some s.raceClock) }) →
    (2 * cast.voteCount ≤ s.eligibleCount →
      ∃ t : State, exec (.abortVote p) s = .next t ∧
        t = { cast with raaPointer := p, ports := t.ports } ∧
        s.GrantFrame p (.abortVote cast.voteCount s.eligibleCount s.race.phase) t ∧
        (∀ q : Port, ((s.port q).offerIf
          (s.isRacePort q && decide (s.race.votes.get p = none))
          (.vote cast.voteCount s.eligibleCount)).SameNotices (t.port q))) ∧
    (s.eligibleCount < 2 * cast.voteCount →
      (∃ q : Port, s.isRacePort q = true ∧ (s.port q).presence ≠ .lost) →
      ∃ t : State, exec (.abortVote p) s = .next t ∧
        t = { s with race := t.race, cars := t.cars, resultsTable := t.resultsTable,
                     raaPointer := p, ports := t.ports } ∧
        t.race = { s.race with
          phase := .results, resultsReason := some .aborted, closingWindow := none,
          votes := .fill none, releaseSet := t.race.releaseSet,
          resultsHold := some s.race.settings.resultsHold } ∧
        (∀ q : Port, t.race.releaseSet.get q = true ↔
          s.isRacePort q = true ∧ (s.port q).presence = .lost) ∧
        (∀ q : Port, t.car q = (s.car q).map fun d =>
          if d.standing.running then { d with standing := .stopped } else d) ∧
        t.resultsTable = some ((s.stopRace .aborted).buildResults .aborted) ∧
        s.GrantFrame p (.abortVote cast.voteCount s.eligibleCount .results) t) ∧
    ∃ u v : State,
      u = { s.requestTaken p with race := cast.race, ports := u.ports } ∧
      (∀ q : Port, u.port q = ((s.requestTaken p).port q).offerAll
        (noticeIf (s.isRacePort q && decide (s.race.votes.get p = none))
          (.vote cast.voteCount s.eligibleCount))) ∧
      (2 * cast.voteCount ≤ s.eligibleCount → v = u) ∧
      (s.eligibleCount < 2 * cast.voteCount → u.CameToResults .aborted v) ∧
      exec (.abortVote p) s =
        .next (v.responsePlaced p (.abortVote cast.voteCount s.eligibleCount v.race.phase))

/-- WITHDRAW_VOTE is refused FENCED, NO_RACE, NOT_ENTERED and WRONG_PHASE in that order, and otherwise
removes the port's vote, if it holds one, with a VOTE notice; it makes no threshold test (R124). -/
def Obligations.WithdrawVoteRemovesTheVote : Prop :=
  ∀ (s : State) (p : Port) (r : Request), s.granted p .withdrawVote = some r →
    ((s.port p).fenced = true →
      exec (.withdrawVote p) s = .next (s.answered p (.bare .withdrawVote .fenced))) ∧
    ((s.port p).fenced = false → s.race.phase = .idle →
      exec (.withdrawVote p) s = .next (s.answered p (.bare .withdrawVote .noRace))) ∧
    ((s.port p).fenced = false → s.race.phase ≠ .idle → s.car p = none →
      exec (.withdrawVote p) s = .next (s.answered p (.bare .withdrawVote .notEntered))) ∧
    (∀ c : Car, (s.port p).fenced = false → s.race.phase ≠ .idle → s.car p = some c →
      s.race.phase.running = false →
      exec (.withdrawVote p) s = .next (s.answered p (.bare .withdrawVote .wrongPhase))) ∧
    (∀ c : Car, (s.port p).fenced = false → s.race.phase.running = true → s.car p = some c →
      ∃ t : State, exec (.withdrawVote p) s = .next t ∧
        t = { s with race := { s.race with votes := s.race.votes.set p none }, raaPointer := p,
                     ports := t.ports } ∧
        s.GrantFrame p (.withdrawVote t.voteCount s.eligibleCount) t ∧
        (∀ q : Port, ((s.port q).offerIf
          (s.isRacePort q && (s.race.votes.get p).isSome)
          (.vote t.voteCount s.eligibleCount)).SameNotices (t.port q)))

/-! ### What a port answers itself -/

/-- IDENTIFY and NOP are refused FENCED on a fenced port and otherwise answered OK, and change nothing;
IDENTIFY returns the content of Table 10.5 (R181). -/
def Obligations.IdentifyAndNopChangeNothing : Prop :=
  ∀ (s : State) (p : Port) (r : Request),
    (s.localRequest p .identify = some r → exec (.identify p) s = .next (s.answeredLocally p (
      if (s.port p).fenced then .bare .identify .fenced
      else .identify p s.race.number s.race.phase (s.carState p) (s.port p).presence
        (s.port p).errorRecord.isSome))) ∧
    (s.localRequest p .nop = some r → exec (.nop p) s = .next (s.answeredLocally p (
      .bare .nop (if (s.port p).fenced then .fenced else .ok)))) ∧
    (∀ (number : Nat) (phase : Phase) (car : CarState) (presence : Presence) (held : Bool),
      (Response.identify p number phase car presence held).frame =
        ⟨0x90, [0x00, 0x08, 0x2C, 0x03, BitVec.ofNat 8 p.val, BitVec.ofNat 8 number,
          BitVec.ofNat 8 phase.code, BitVec.ofNat 8 car.code, BitVec.ofNat 8 presence.code,
          BitVec.ofNat 8 held.toNat]⟩)

/-- SET_PUSH is refused FENCED, and RANGE for an interval that is neither 0 nor 16 to 1,000; accepted, it
sets the interval, and starts the push timer from it in every phase but IDLE, or stops it for interval 0;
the push slot stays, and the response carries the interval (R155). -/
def Obligations.SetPushSetsTheInterval : Prop :=
  ∀ (s : State) (p : Port) (r : Request), s.localRequest p .setPush = some r →
    byteAt r.payload 2 = 0 → byteAt r.payload 3 = 0 →
    (s.race.phase = .idle → (s.port p).pushTimer = none) →
    ((s.port p).fenced = true →
      exec (.setPush p) s = .next (s.answeredLocally p (.bare .setPush .fenced))) ∧
    ((s.port p).fenced = false →
      halfAt r.payload 0 ≠ 0 ∧ (halfAt r.payload 0 < 16 ∨ 1000 < halfAt r.payload 0) →
      exec (.setPush p) s = .next (s.answeredLocally p (.bare .setPush .range))) ∧
    ((s.port p).fenced = false → halfAt r.payload 0 = 0 →
      exec (.setPush p) s = .next ((s.answeredLocally p (.setPush 0)).modifyPort p fun c =>
        { c with pushInterval := 0, pushTimer := none })) ∧
    ((s.port p).fenced = false → 16 ≤ halfAt r.payload 0 ∧ halfAt r.payload 0 ≤ 1000 →
      s.race.phase ≠ .idle →
      exec (.setPush p) s =
        .next ((s.answeredLocally p (.setPush (halfAt r.payload 0))).modifyPort p fun c =>
          { c with pushInterval := halfAt r.payload 0, pushTimer := some (halfAt r.payload 0) })) ∧
    ((s.port p).fenced = false → 16 ≤ halfAt r.payload 0 ∧ halfAt r.payload 0 ≤ 1000 →
      s.race.phase = .idle →
      exec (.setPush p) s =
        .next ((s.answeredLocally p (.setPush (halfAt r.payload 0))).modifyPort p fun c =>
          { c with pushInterval := halfAt r.payload 0 }))

/-- CLEAR_ERRORS, fenced or not, returns the record and the fence as they stood, empties the record, lifts
the fence and makes the port PRESENT with the first stage at 250 ms. It is stated here for a port that
has something to clear or is not PRESENT; for any other it only answers (log 7). A port that was LATE
returns: its coasting car races again, and in COUNTDOWN the hold test is made; otherwise nothing else
changes (R144, R138, R114). -/
def Obligations.ClearErrorsLiftsTheFence : Prop :=
  ∀ (s : State) (p : Port) (r : Request), s.localRequest p .clearErrors = some r →
    ((s.port p).errorRecord ≠ none ∨ (s.port p).fenced = true ∨ (s.port p).presence ≠ .present →
      (s.port p).presence ≠ .late ∨ s.race.phase ≠ .countdown ∧ s.carState p ≠ .coasting →
      exec (.clearErrors p) s =
        .next ((s.answeredLocally p
          (.clearErrors (s.port p).errorRecord (s.port p).fenced)).modifyPort p fun c =>
          { c with errorRecord := none, fenced := false, presence := .present,
                   silence := .first 250 })) ∧
    ((s.port p).errorRecord = none → (s.port p).fenced = false → (s.port p).presence = .present →
      exec (.clearErrors p) s = .next (s.answeredLocally p (.clearErrors none false))) ∧
    ((s.port p).presence = .late →
      ∃ v : State, ((s.requestTaken p).modifyPort p fun c =>
          { c with errorRecord := none, fenced := false, presence := .present,
                   silence := .first 250 }).ReturnEffects p v ∧
        exec (.clearErrors p) s = .next (v.modifyPort p fun c =>
          c.respond (.clearErrors (s.port p).errorRecord (s.port p).fenced))) ∧
    (∀ c : Car, s.race.phase.running = true → s.car p = some c → c.standing = .coasting →
      (s.port p).presence = .late →
      ∃ t : State, exec (.clearErrors p) s = .next t ∧
        t = { s with cars := t.cars, ports := t.ports } ∧
        t.car p = some { c with standing := .racing } ∧ s.OtherCars p t ∧
        (t.port p).presence = .present ∧ (t.port p).silence = .first 250 ∧
        (t.port p).fenced = false ∧ (t.port p).errorRecord = none ∧
        ∀ q : Port, q ≠ p → ((s.port q).offerIf (s.isRacePort q)
          (.carState p .racing .none)) = t.port q)

/-- A reserved byte that is not zero changes nothing in the handling of its request: it has the effect and
the response of the same request with its reserved bytes zero, and then BAD_FIELD is taken as a major
error with the request's kind: the first fills the record, the second sets MULTIPLE, the third fences the
port (R185, R141, R142, R143). -/
def Obligations.ReservedBytesAreReported : Prop :=
  ∀ (s : State) (p : Port) (r : Request),
    (s.granted p .carSetup = some r → byteAt r.payload 5 ≠ 0 →
      ∃ t u : State,
        exec (.carSetup p) (s.withHead p { r with payload := r.payload.set 5 0 }) = .next t ∧
        t.TookMajorError p .badField (some 0x05) u ∧ exec (.carSetup p) s = .next u) ∧
    (s.localRequest p .setPush = some r → byteAt r.payload 2 ≠ 0 ∨ byteAt r.payload 3 ≠ 0 →
      ∃ t u : State,
        exec (.setPush p) (s.withHead p { r with payload := (r.payload.set 2 0).set 3 0 }) = .next t ∧
        t.TookMajorError p .badField (some 0x12) u ∧ exec (.setPush p) s = .next u)

/-! ### Reception -/

/-- With each byte that arrives, the receiver of a port searches the bytes it holds as the rules state it,
and no other outcome of the search agrees with them. A hunting receiver so turns the bytes of a frame, with
its CHECK, into exactly one VALID_FRAME with the frame's kind and payload, and is hunting again after the
last byte; a LEN above 240 is one BAD_LENGTH_FRAME at once; a frame with an incorrect check and no other
SYNC among its bytes is one BAD_CHECK_FRAME; and where such a frame holds a whole frame with a correct check,
that frame is found as well (R172, R173). That a candidate becomes a command at the end of the queue is the
model's reading (log 10, DEDUCED). -/
def Obligations.FrameBytesBecomeOneValidFrame : Prop :=
  (∀ (s : State) (p : Port) (b : Byte),
    (∃ (r : Receiver) (found : List Instr), Receiver.Searched p
      ⟨(s.port p).receiver.bytes ++ [b], (s.port p).receiver.discarded⟩ r found) ∧
    ∀ (r : Receiver) (found : List Instr), Receiver.Searched p
        ⟨(s.port p).receiver.bytes ++ [b], (s.port p).receiver.discarded⟩ r found →
      s.receiveByte p b =
        { s.modifyPort p (fun c => { c with receiver := r }) with pending := s.pending ++ found }) ∧
  (∀ (s : State) (p : Port) (kind : Byte) (payload : List Byte),
    (s.port p).receiver = ⟨[], 0⟩ → payload.length ≤ 240 →
    s.receiveBytes p (Frame.bytes ⟨kind, payload⟩) =
      { s with pending := s.pending ++ [.validFrame p kind payload] }) ∧
  (∀ (s : State) (p : Port) (len : Byte), (s.port p).receiver = ⟨[], 0⟩ → 240 < len.toNat →
    s.receiveBytes p [0xC3, len] = { s with pending := s.pending ++ [.badLengthFrame p] }) ∧
  (∀ (s : State) (p : Port) (len kind x y : Byte) (payload : List Byte),
    (s.port p).receiver = ⟨[], 0⟩ → payload.length = len.toNat → len.toNat ≤ 240 →
    [x, y] ≠ checkBytes (frameCheck (len :: kind :: payload)) →
    (0xC3 ∉ len :: kind :: (payload ++ [x, y]) →
      s.receiveBytes p (0xC3 :: len :: kind :: (payload ++ [x, y])) =
        { s with pending := s.pending ++ [.badCheckFrame p] }) ∧
    ∀ (before after : List Byte) (f : Frame), f.payload.length ≤ 240 → 0xC3 ∉ before →
      0xC3 ∉ after → len :: kind :: (payload ++ [x, y]) = before ++ f.bytes ++ after →
      s.receiveBytes p (0xC3 :: len :: kind :: (payload ++ [x, y])) =
        { s with pending := s.pending ++ [.badCheckFrame p, .validFrame p f.kind f.payload] })

/-- A request frame of an allowed length: the link is UP with the count at 0, the port is PRESENT with the
first stage at 250 ms unless it is fenced, and the request stands at the tail with the tick count. With
four entries waiting it is answered BUSY instead, or discarded when no answer fits. A port that was LATE
returns to PRESENT, with the effects of a return; another changes nothing in the race (R174, R175, R131,
R138). A port-local request that meets an empty queue and room for its response is answered in the event
of its arrival, as it is answered at the head of the queue (R176, log 16). -/
def Obligations.ValidFrameQueuesTheRequest : Prop :=
  ∀ (s : State) (p : Port) (kind : Byte) (k : RequestKind) (payload : List Byte),
    payload.length ≤ 240 → RequestKind.ofCode kind = some k → k.lengthAllowed payload = true →
    ∃ t : State,
      ((s.port p).requestQueue ≠ [] ∨ k.portLocal = false ∨ 6 ≤ (s.port p).responseQueue.length →
        exec (.validFrame p kind payload) s = .next t) ∧
      ((s.port p).requestQueue = [] → (s.port p).responseQueue.length < 6 →
        ∀ c : Instr, (k, c) ∈ localRequests p → exec (.validFrame p kind payload) s = exec c t) ∧
      (t.port p).link = .up ∧ (t.port p).badChecks = 0 ∧
      ((s.port p).fenced = false →
        (t.port p).presence = .present ∧ (t.port p).silence = .first 250) ∧
      ((s.port p).fenced = true → (t.port p).presence = (s.port p).presence ∧
        (t.port p).silence = (s.port p).silence) ∧
      ((s.port p).requestQueue.length < 4 →
        (t.port p).requestQueue =
          (s.port p).requestQueue ++ [.request ⟨k, payload, s.tickCount⟩] ∧
        (t.port p).responseQueue = (s.port p).responseQueue) ∧
      (4 ≤ (s.port p).requestQueue.length →
        (t.port p).requestQueue = (s.port p).requestQueue ∧
        (t.port p).responseQueue = if (s.port p).responseQueue.length < 6
          then (s.port p).responseQueue ++ [.bare k .busy] else (s.port p).responseQueue) ∧
      (∀ q : Port, q ≠ p → (s.port q).SameButNotices (t.port q)) ∧
      (t.port p).errorRecord = (s.port p).errorRecord ∧ (t.port p).fenced = (s.port p).fenced ∧
      ((s.port p).fenced = true ∨ (s.port p).presence ≠ .late →
        t = { s with ports := t.ports } ∧ ∀ q : Port, q ≠ p → t.port q = s.port q) ∧
      ((s.port p).fenced = false → (s.port p).presence = .late →
        ∃ v : State, (s.modifyPort p fun c =>
            { c with link := .up, badChecks := 0, presence := .present, silence := .first 250 }
            ).ReturnEffects p v ∧
          t = v.modifyPort p fun c =>
            { c with requestQueue := (t.port p).requestQueue
                     responseQueue := (t.port p).responseQueue })

/-- A request kind with a wrong length is discarded unanswered and is taken as a major error BAD_LENGTH with
its kind. Any other kind is queued as an unknown frame, or with four entries waiting is answered BUSY, or
discarded where the response queue is full, and is then taken as a major error UNKNOWN_KIND; it is answered
UNKNOWN_KIND in the event of its arrival where nothing waited and the answer fits, and otherwise at the head
of the queue, by a command of its own (log 16). Each frame first acts on the link and the presence. The first
of these errors fills the record, the second sets MULTIPLE, the third fences the port (R174, R175, R176,
R184, R140 to R143, R131, R138). -/
def Obligations.WrongLengthAndUnknownFrames : Prop :=
  (∀ (s : State) (p : Port) (kind : Byte) (k : RequestKind) (payload : List Byte),
    payload.length ≤ 240 → RequestKind.ofCode kind = some k → k.lengthAllowed payload = false →
    ∃ u t : State, s.FrameArrived p u ∧ u.TookMajorError p .badLength (some kind) t ∧
      exec (.validFrame p kind payload) s = .next t ∧
      (t.port p).requestQueue = (s.port p).requestQueue ∧
      (t.port p).responseQueue = (s.port p).responseQueue ∧
      ((s.port p).errorRecord = none →
        (t.port p).errorRecord = some ⟨.badLength, some kind, s.raceClock, false⟩)) ∧
  (∀ (s : State) (p : Port) (kind : Byte) (payload : List Byte),
    payload.length ≤ 240 → RequestKind.ofCode kind = none →
    ∃ u v t : State, s.FrameArrived p u ∧
      ((s.port p).requestQueue.length < 4 → v = u.modifyPort p fun c =>
        { c with requestQueue := (s.port p).requestQueue ++ [.unknown kind s.tickCount] }) ∧
      (4 ≤ (s.port p).requestQueue.length → (s.port p).responseQueue.length < 6 →
        v = u.modifyPort p fun c =>
          { c with responseQueue := (s.port p).responseQueue ++ [.unknownFrame kind .busy] }) ∧
      (4 ≤ (s.port p).requestQueue.length → 6 ≤ (s.port p).responseQueue.length → v = u) ∧
      v.TookMajorError p .unknownKind (some kind) t ∧
      ((s.port p).requestQueue ≠ [] ∨ 6 ≤ (s.port p).responseQueue.length →
        exec (.validFrame p kind payload) s = .next t ∧
        (t.port p).requestQueue = (v.port p).requestQueue ∧
        (t.port p).responseQueue = (v.port p).responseQueue) ∧
      ((s.port p).requestQueue = [] → (s.port p).responseQueue.length < 6 →
        exec (.validFrame p kind payload) s =
          .next (t.answeredLocally p (.unknownFrame kind .unknownKind)) ∧
        (t.port p).requestQueue = [.unknown kind s.tickCount] ∧
        (t.port p).responseQueue = (s.port p).responseQueue) ∧
      ((s.port p).errorRecord = none →
        (t.port p).errorRecord = some ⟨.unknownKind, some kind, s.raceClock, false⟩)) ∧
  (∀ (s : State) (p : Port) (kind : Byte) (arrival : Nat),
    (s.port p).head = some (.unknown kind arrival) →
    exec (.unknownFrameAnswer p) s =
      .next (s.answeredLocally p (.unknownFrame kind .unknownKind)))

/-- A frame with a bad check on an UP link raises the count by 1 and is a major error, on a fenced port as
on any other; the eighth in a row takes the link DOWN as well: everything on the link is flushed, the
candidate being received with it, and a port that is still PRESENT goes LATE with the effects of silence. On
a DOWN link it is discarded without report and without count (R171, R173, R140 to R143, R179, R133). That
commands of candidates already judged stay queued is the model's reading (log 10, DEDUCED). -/
def Obligations.BadChecksTakeTheLinkDown : Prop :=
  ∀ (s : State) (p : Port),
    ((s.port p).link = .down → exec (.badCheckFrame p) s = .next s) ∧
    ((s.port p).link = .up →
      ∃ u : State,
        (s.modifyPort p fun c => { c with badChecks := c.badChecks + 1 }).TookMajorError p .badCheck
          none u ∧
        ((s.port p).badChecks + 1 < 8 → exec (.badCheckFrame p) s = .next u) ∧
        (8 ≤ (s.port p).badChecks + 1 →
          ∃ t : State, exec (.badCheckFrame p) s = .next t ∧ u.LostLink p t))

/-- The ladder of major errors: the first fills the record and raises an ERROR notice on the own port, the
second sets MULTIPLE, the third fences the port, and a fenced port's errors change nothing. A port fenced
while PRESENT or LOST goes LATE with reason FENCED: its RACING car coasts, and in COUNTDOWN the hold test
is made; one fenced while LATE stays LATE and keeps its timer. A candidate with a LEN above 240 brings
each (R140 to R143, R137, R172). A resynchronising candidate that fails brings nothing (R173). -/
def Obligations.MajorErrorsEndInTheFence : Prop :=
  ∀ (s : State) (p : Port),
    ((s.port p).link = .up →
      (∃ u : State, s.TookMajorError p .badLength none u ∧ exec (.badLengthFrame p) s = .next u) ∧
      (∀ record : ErrorRecord, (s.port p).errorRecord = some record →
        record.multiple = true → (s.port p).fenced = false → (s.port p).presence = .present →
        ∃ t : State, exec (.badLengthFrame p) s = .next t ∧ (t.port p).fenced = true ∧
          (t.port p).presence = .late ∧ (t.port p).silence = .second 2750 ∧
          (t.port p).errorRecord = some record ∧
          (∀ q : Port, q ≠ p → (s.port q).SameButNotices (t.port q)) ∧
          (s.race.phase.running = true → s.carState p = .racing →
            t = { s with cars := t.cars, ports := t.ports } ∧ t.carState p = .coasting ∧
              s.OtherCars p t))) ∧
    ((s.port p).link = .down → exec (.badLengthFrame p) s = .next s) ∧
    exec (.resynchronisingCandidateDiscard p) s = .next s

/-- Loss of signal takes an UP link DOWN: the port is flushed, its push interval is 0, and a PRESENT port
goes LATE with the second stage at 2,750 ms, with the effects of silence: its RACING car coasts, and in
COUNTDOWN a READY car's hold test is made; where the port is not PRESENT nothing else changes. The record
and the fence stay. On a DOWN link only the candidate being received is lost (R171, R179, R133, R137). -/
def Obligations.LossOfSignalFlushesThePort : Prop :=
  ∀ (s : State) (p : Port), ∃ t : State, exec (.lossOfSignal p) s = .next t ∧
    (t.port p).receiver = ⟨[], 0⟩ ∧
    ((s.port p).link = .down →
      t = s.modifyPort p fun c => { c with receiver := ⟨[], 0⟩ }) ∧
    ((s.port p).link = .up → s.LostLink p t ∧
      (t.port p).link = .down ∧ (t.port p).badChecks = 0 ∧ (t.port p).requestQueue = [] ∧
      (t.port p).responseQueue = [] ∧ (t.port p).noticeQueue = [] ∧ (t.port p).overflow = false ∧
      (t.port p).pushSlot = none ∧ (t.port p).pushInterval = 0 ∧ (t.port p).pushTimer = none ∧
      (t.port p).sending = none ∧ (t.port p).errorRecord = (s.port p).errorRecord ∧
      (t.port p).fenced = (s.port p).fenced ∧
      ((s.port p).presence = .present →
        (t.port p).presence = .late ∧ (t.port p).silence = .second 2750) ∧
      ((s.port p).presence ≠ .present → (t.port p).presence = (s.port p).presence ∧
        (t.port p).silence = (s.port p).silence)) ∧
    t.raaPointer = s.raaPointer ∧ ∀ q : Port, q ≠ p → (s.port q).SameButNotices (t.port q)

/-- At a frame boundary the transmitter takes the head response, else the head notice, else the push
slot; the take of a notice with the overflow condition set places an OVERFLOW notice in the freed entry.
A DOWN link takes nothing (R178, R163). -/
def Obligations.TransmitPrecedence : Prop :=
  ∀ (s : State) (p : Port),
    ((s.port p).link = .down → exec (.transmitTake p) s = .next s) ∧
    ((s.port p).link = .up →
      (∀ r rest, (s.port p).responseQueue = r :: rest →
        exec (.transmitTake p) s = .next (s.modifyPort p fun c =>
          { c with responseQueue := rest, sending := some r.frame })) ∧
      (∀ n rest, (s.port p).responseQueue = [] → (s.port p).noticeQueue = n :: rest →
        exec (.transmitTake p) s = .next (s.modifyPort p fun c =>
          { c with noticeQueue := if c.overflow then rest ++ [.overflow] else rest
                   overflow := false, sending := some n.frame })) ∧
      (∀ x, (s.port p).responseQueue = [] → (s.port p).noticeQueue = [] →
        (s.port p).pushSlot = some x →
        exec (.transmitTake p) s = .next (s.modifyPort p fun c =>
          { c with pushSlot := none, sending := some ⟨0x60, x.bytes⟩ })))

/-- A notice offered to a port is not placed on a DOWN link, is placed at the tail while the queue holds
fewer than 16, and is otherwise discarded with the overflow condition set; the queue never holds more
than 16 (R162). -/
def Obligations.NoticesOfferedToAPort : Prop :=
  ∀ (c : PortState) (n : Notice), c.noticeQueue.length ≤ 16 →
    (c.link = .down → c.offer n = c) ∧
    (c.link = .up → c.noticeQueue.length < 16 →
      c.offer n = { c with noticeQueue := c.noticeQueue ++ [n] }) ∧
    (c.link = .up → c.noticeQueue.length = 16 → c.offer n = { c with overflow := true }) ∧
    (c.offer n).noticeQueue.length ≤ 16

/-! ### Silence -/

/-- The expiry of the first stage takes a PRESENT port to LATE with the second stage at 2,750 ms. In
COUNTDOWN a READY car's port is put to the hold test; in GREEN and FINISHING its RACING car becomes
COASTING with every other field kept; for an EMPTY car and in IDLE, FORMING, GRID and RESULTS nothing else
happens. The next valid frame of the port, a NOP, makes a COASTING car RACING again (R132, R137, R138). -/
def Obligations.SilenceCoastsARacingCar : Prop :=
  (∀ (s : State) (p : Port), (s.port p).silence = .first 0 →
    ∃ t : State, exec (.silenceFirstStageExpiry p) s = .next t ∧
      (s.modifyPort p fun c => { c with presence := .late, silence := .second 2750 }).LateEffects p
        .silent t) ∧
  (∀ (s : State) (p : Port) (c : Car), (s.port p).silence = .first 0 →
      s.race.phase.running = true → s.car p = some c → c.standing = .racing →
      ∃ t : State, exec (.silenceFirstStageExpiry p) s = .next t ∧
        t = { s with cars := t.cars, ports := t.ports } ∧
        t.car p = some { c with standing := .coasting } ∧ s.OtherCars p t ∧
        (∀ q : Port, t.port q =
          (if q = p then { s.port q with presence := .late, silence := .second 2750 }
            else s.port q).offerIf (s.isRacePort q) (.carState p .coasting .silent)) ∧
        ((s.port p).fenced = false →
          ∃ u : State, exec (.validFrame p RequestKind.nop.code []) t = .next u ∧
            u = { s with ports := u.ports } ∧ (u.port p).presence = .present))

/-- The expiry of the second stage takes a LATE port to LOST. In FORMING, GRID and COUNTDOWN its car is
withdrawn with reason SILENT, with the tests that follow a withdrawal. In GREEN and FINISHING its COASTING
car retires at the race clock with its D kept, with reason FENCED if the port is fenced and SILENT if not,
and the end tests follow; while another car runs and the votes do not meet the threshold the race goes on.
In RESULTS the port joins the release set, and the last one returns the race to IDLE. An EMPTY car brings
nothing else (R134, R139, R52, R54, R37). -/
def Obligations.LongSilenceRetiresACoastingCar : Prop :=
  (∀ (s : State) (p : Port), (s.port p).silence = .second 0 →
    ∃ t : State, exec (.silenceSecondStageExpiry p) s = .next t ∧
      (s.modifyPort p fun c => { c with presence := .lost, silence := .stopped }).LostEffects p t) ∧
  (∀ (s : State) (p q : Port) (c d : Car), (s.port p).silence = .second 0 →
      s.race.phase.running = true → s.car p = some c → c.standing = .coasting →
      q ≠ p → s.car q = some d → d.standing.running = true →
      2 * (s.dropVote p).voteCount ≤ s.eligibleCount - 1 →
      ∃ t : State, exec (.silenceSecondStageExpiry p) s = .next t ∧
        t = { s with
          cars := t.cars
          race := { s.race with votes := s.race.votes.set p none }
          activeGroup := s.activeGroup.filter (fun x => x ≠ p)
          retiredGroup := s.placeByDistance p s.retiredGroup
          ports := t.ports } ∧
        t.car p = some { c with
          standing := .retired (if (s.port p).fenced then .fenced else .silent) s.raceClock } ∧
        s.OtherCars p t ∧
        PortState.SameButNotices { s.port p with presence := .lost, silence := .stopped } (t.port p) ∧
        (∀ x : Port, x ≠ p → (s.port x).SameButNotices (t.port x)))

/-- In COUNTDOWN a READY car's port going LATE begins a hold with the time left saved, and its return with
no other READY car's port LATE resumes the countdown from the saved time (R115, R118, R114). -/
def Obligations.CountdownHoldsAndResumes : Prop :=
  (∀ (s : State) (p : Port) (left : Nat), (s.port p).silence = .first 0 →
    s.race.phase = .countdown → s.carState p = .ready → s.race.holdSlot = none →
    s.race.countdown = some left → 1 ≤ left →
    ∃ t : State, exec (.silenceFirstStageExpiry p) s = .next t ∧
      t = { s with race := { s.race with holdSlot := some left, countdown := none },
                   ports := t.ports } ∧
      (t.port p).presence = .late ∧
      (∀ q : Port, ((s.port q).offerIf (s.isPresentPort q && decide (q ≠ p))
        (.phase .held s.race.number)).SameNotices (t.port q))) ∧
  (∀ (s : State) (p : Port) (saved : Nat) (payload : List Byte),
    (s.port p).fenced = false → (s.port p).presence = .late →
    s.race.phase = .countdown → s.carState p = .ready → s.race.holdSlot = some saved →
    (∀ q : Port, q ≠ p → s.carState q = .ready → (s.port q).presence ≠ .late) →
    RequestKind.report.lengthAllowed payload = true →
    ∃ t : State, exec (.validFrame p RequestKind.report.code payload) s = .next t ∧
      t = { s with race := { s.race with holdSlot := none, countdown := some saved },
                   ports := t.ports } ∧
      (t.port p).presence = .present)

/-! ### Timers -/

/-- When the entry window has run for its setting, its expiry moves the race to GRID with a course LOADED,
and dissolves it with reason NO_COURSE with the record EMPTY (R25, R39). -/
def Obligations.EntryWindowExpiry : Prop :=
  ∀ (s : State) (passed : Nat), s.race.phase = .forming → s.race.entryWindow = some passed →
    s.race.settings.entryWindow ≤ passed →
    (s.course ≠ none → ∃ t : State, exec .entryWindowExpiry s = .next t ∧
      t = { s with
        race := { s.race with phase := .grid, opener := none, entryWindow := none,
                              gridWait := some s.race.settings.gridWait }
        ports := t.ports } ∧
      (∀ q : Port, t.port q = (s.port q).offerIf (s.isPresentPort q)
        (.phase (.changed .grid .none) s.race.number))) ∧
    (s.course = none → ∃ t : State, exec .entryWindowExpiry s = .next t ∧
      s.ReturnedToIdle .noCourse t)

/-- When the grid wait runs out, every car that is ENTERED is withdrawn with reason READY_MISSED, one after
another in ascending slot order, each with its ENTRY notice and the notices of its move, and the cars that
remain keep all but their entry positions, which close up. If a READY car remains the race then enters
COUNTDOWN, running or held, with its PHASE notices, and if none does it is dissolved with a PHASE notice of
reason NO_STARTERS (R28, R52, R44, R27, R116, R29, R39). -/
def Obligations.GridWaitExpiry : Prop :=
  ∀ s : State, s.race.phase = .grid → s.race.gridWait = some 0 → s.RaceSound →
    ∃ (missed : List Port) (u t : State), exec .gridWaitExpiry s = .next t ∧
      (∀ q : Port, q ∈ missed ↔ s.carState q = .entered) ∧ missed.Pairwise (· < ·) ∧
      s.WithdrawnEach .readyMissed missed u ∧
      ((∃ q : Port, s.carState q = .ready) → u.EnteredCountdown t ∧
        t = { s with
          cars := t.cars, entryList := s.entryList.filter (fun q => s.carState q ≠ .entered)
          race := { s.race with
            phase := .countdown, gridWait := none
            holdSlot := if ∃ q : Port, s.carState q = .ready ∧ (s.port q).presence = .late
              then some s.race.settings.countdownLength else none
            countdown := if ∃ q : Port, s.carState q = .ready ∧ (s.port q).presence = .late
              then none else some s.race.settings.countdownLength }
          ports := t.ports } ∧
        (∀ q : Port, s.carState q = .ready →
          ∃ position : Nat, t.car q = (s.car q).map fun c => { c with entryPosition := position }) ∧
        (∀ q : Port, s.carState q ≠ .ready → t.car q = none) ∧
        ∀ q : Port, (s.port q).SameButNotices (t.port q)) ∧
      ((∀ q : Port, s.carState q ≠ .ready) → u.ReturnedToIdle .noStarters t ∧
        t.race = { RaceRecord.reset with number := s.race.number, settings := s.race.settings } ∧
        t.course = none ∧ t.entryList = [] ∧ t.raceClock = 0 ∧ ∀ q : Port, t.car q = none)

/-- When the countdown runs out the race goes GREEN: the race clock is 0, every READY car is RACING at D 0
on gate (1, 0) with its next gate derived, its penalty and sticky flags kept, and the entry list is the
active group (R30, R45). -/
def Obligations.CountdownExpiryGoesGreen : Prop :=
  ∀ (s : State) (course : Course), s.race.phase = .countdown → s.race.countdown = some 0 →
    s.race.holdSlot = none → s.course = some course → s.RaceSound →
    ∃ t : State, exec .countdownExpiry s = .next t ∧
      t = { s with
        race := { s.race with phase := .green, countdown := none }, raceClock := 0
        cars := t.cars, activeGroup := s.entryList, ports := t.ports } ∧
      (∀ q : Port, t.car q = (s.car q).map fun c =>
        { c with standing := .racing, distance := 0, floorGate := ⟨1, 0⟩
                 nextGate := course.next s.race.settings.laps ⟨1, 0⟩, lastReport := 0
                 lastLine := 0 }) ∧
      (∀ q : Port, t.port q = (s.port q).offerIf (s.isPresentPort q)
        (.phase (.changed .green .none) s.race.number))

/-- When the closing window runs out the race enters RESULTS with reason CLOSED, and when the results hold
runs out it returns to IDLE with reason HOLD_EXPIRED, and everything of the race is cleared but its
number and its settings (R33, R36, R38, R40). -/
def Obligations.ClosingWindowAndResultsHoldExpiries : Prop :=
  (∀ s : State, s.race.phase = .finishing → s.race.closingWindow = some 0 →
    (∃ q : Port, s.isRacePort q = true ∧ (s.port q).presence ≠ .lost) →
    ∃ t : State, exec .closingWindowExpiry s = .next t ∧ s.EnteredResults .closed t) ∧
  (∀ s : State, s.race.phase = .results → s.race.resultsHold = some 0 →
    ∃ t : State, exec .resultsHoldExpiry s = .next t ∧ s.ReturnedToIdle .holdExpired t)

/-- The tick that brings the race clock to the race limit enters RESULTS with reason LIMIT in the same
event, and the clock stops at the limit (R35). -/
def Obligations.RaceLimitEntersResults : Prop :=
  ∀ s : State, s.NothingDue → s.race.phase.running = true →
    s.raceClock + 1 = s.race.settings.raceLimit →
    (∃ q : Port, s.isRacePort q = true ∧ (s.port q).presence ≠ .lost) →
    ∃ t : State, exec .raceLimit s = .next t ∧ exec .tick s = .next t ∧
      s.countTick.EnteredResults .limit t ∧ t.raceClock = s.race.settings.raceLimit

/-- A vote expires when the race clock reaches its cast time plus 10,000: it leaves the vote set with a
VOTE notice, and no threshold test is made. The expiry of a push timer captures the race into the push
slot, replacing what it held, and starts the timer again (R125, R157). -/
def Obligations.VoteAndPushTimerExpiries : Prop :=
  (∀ (s : State) (p : Port) (castTime : Nat), s.race.phase.running = true →
    s.race.votes.get p = some castTime → castTime + 10000 ≤ s.raceClock →
    ∃ t : State, exec (.voteExpiry p) s = .next t ∧
      t = { s with race := { s.race with votes := s.race.votes.set p none }, ports := t.ports } ∧
      t.voteCount + 1 = s.voteCount ∧
      (∀ q : Port, t.port q = (s.port q).offerIf (s.isRacePort q)
        (.vote t.voteCount s.eligibleCount))) ∧
  (∀ (s : State) (p : Port), (s.port p).pushTimer = some 0 →
    exec (.pushTimerExpiry p) s = .next (s.modifyPort p fun c =>
      { c with pushSlot := some s.capture, pushTimer := some c.pushInterval }))

/-- A tick with no expiry due counts one on the tick count, on the race clock in GREEN and FINISHING, and
one off every running timer; nothing else changes (R17, R31, R147). -/
def Obligations.TickCountsOneMillisecond : Prop :=
  ∀ s : State, s.NothingDue →
    ¬(s.race.phase.running = true ∧ s.race.settings.raceLimit ≤ s.raceClock + 1) →
    ∃ t : State, exec .tick s = .next t ∧
      t = { s with tickCount := s.tickCount + 1, raceClock := t.raceClock, race := t.race,
                   ports := t.ports } ∧
      t.raceClock = (if s.race.phase = .green ∨ s.race.phase = .finishing then s.raceClock + 1
        else s.raceClock) ∧
      t.race = { s.race with
        entryWindow := s.race.entryWindow.map (· + 1), gridWait := s.race.gridWait.map (· - 1)
        countdown := s.race.countdown.map (· - 1)
        closingWindow := s.race.closingWindow.map (· - 1)
        resultsHold := s.race.resultsHold.map (· - 1) } ∧
      (∀ p : Port, t.port p = { s.port p with
        pushTimer := (s.port p).pushTimer.map (· - 1)
        silence := (t.port p).silence }) ∧
      (∀ p : Port, (t.port p).silence = match (s.port p).silence with
        | .stopped => .stopped
        | .first n => .first (n - 1)
        | .second n => .second (n - 1))
end

