-- ==== Sys2Proof/Laws/State.lean ====
section
/-! SUPPORT. One lemma for each field that an update of the state leaves as it is, and what a port or a
car reads after an update. -/
namespace Sys2Proof

/-! ### Banks -/

@[simp] theorem Bank.get_fill {α : Type} (x : α) (p : Port) : (Bank.fill x).get p = x := by
  fin_cases p <;> rfl

@[simp] theorem Bank.get_mapPorts {α β : Type} (f : Port → α → β) (b : Bank α) (p : Port) :
    (b.mapPorts f).get p = f p (b.get p) := by
  fin_cases p <;> rfl

@[simp] theorem Bank.get_map {α β : Type} (f : α → β) (b : Bank α) (p : Port) :
    (b.map f).get p = f (b.get p) := by
  fin_cases p <;> rfl

@[simp] theorem Bank.get_set_self {α : Type} (b : Bank α) (p : Port) (x : α) :
    (b.set p x).get p = x := by
  fin_cases p <;> rfl

theorem Bank.get_set_ne {α : Type} (b : Bank α) {p q : Port} (x : α) (h : q ≠ p) :
    (b.set p x).get q = b.get q := by
  fin_cases p <;> fin_cases q <;> first | rfl | exact absurd rfl h

theorem Bank.get_set {α : Type} (b : Bank α) (p q : Port) (x : α) :
    (b.set p x).get q = if q = p then x else b.get q := by
  split
  · next h => rw [h, Bank.get_set_self]
  · next h => exact Bank.get_set_ne b x h

/-- Two banks with the same value for every port are the same bank. -/
theorem Bank.ext_get {α : Type} {a b : Bank α} (h : ∀ p : Port, a.get p = b.get p) : a = b := by
  cases a
  cases b
  simp only [Bank.mk.injEq]
  exact ⟨h 0, h 1, h 2, h 3, h 4, h 5, h 6, h 7⟩

theorem Bank.set_get {α : Type} (b : Bank α) (p : Port) : b.set p (b.get p) = b :=
  Bank.ext_get fun q => by rw [Bank.get_set]; split <;> simp_all

theorem mem_allPorts (p : Port) : p ∈ allPorts := by
  fin_cases p <;> decide

namespace Machine

/-! ### modifyPort -/

@[simp] theorem State.modifyPort_pending (s : State) (p : Port) (f : PortState → PortState) :
    (s.modifyPort p f).pending = s.pending := rfl

@[simp] theorem State.modifyPort_tickCount (s : State) (p : Port) (f : PortState → PortState) :
    (s.modifyPort p f).tickCount = s.tickCount := rfl

@[simp] theorem State.modifyPort_raceClock (s : State) (p : Port) (f : PortState → PortState) :
    (s.modifyPort p f).raceClock = s.raceClock := rfl

@[simp] theorem State.modifyPort_raaPointer (s : State) (p : Port) (f : PortState → PortState) :
    (s.modifyPort p f).raaPointer = s.raaPointer := rfl

@[simp] theorem State.modifyPort_race (s : State) (p : Port) (f : PortState → PortState) :
    (s.modifyPort p f).race = s.race := rfl

@[simp] theorem State.modifyPort_course (s : State) (p : Port) (f : PortState → PortState) :
    (s.modifyPort p f).course = s.course := rfl

@[simp] theorem State.modifyPort_cars (s : State) (p : Port) (f : PortState → PortState) :
    (s.modifyPort p f).cars = s.cars := rfl

@[simp] theorem State.modifyPort_entryList (s : State) (p : Port) (f : PortState → PortState) :
    (s.modifyPort p f).entryList = s.entryList := rfl

@[simp] theorem State.modifyPort_activeGroup (s : State) (p : Port) (f : PortState → PortState) :
    (s.modifyPort p f).activeGroup = s.activeGroup := rfl

@[simp] theorem State.modifyPort_retiredGroup (s : State) (p : Port) (f : PortState → PortState) :
    (s.modifyPort p f).retiredGroup = s.retiredGroup := rfl

@[simp] theorem State.modifyPort_finishList (s : State) (p : Port) (f : PortState → PortState) :
    (s.modifyPort p f).finishList = s.finishList := rfl

@[simp] theorem State.modifyPort_resultsTable (s : State) (p : Port) (f : PortState → PortState) :
    (s.modifyPort p f).resultsTable = s.resultsTable := rfl

/-! ### modifyCar -/

@[simp] theorem State.modifyCar_pending (s : State) (p : Port) (f : Car → Car) :
    (s.modifyCar p f).pending = s.pending := rfl

@[simp] theorem State.modifyCar_tickCount (s : State) (p : Port) (f : Car → Car) :
    (s.modifyCar p f).tickCount = s.tickCount := rfl

@[simp] theorem State.modifyCar_raceClock (s : State) (p : Port) (f : Car → Car) :
    (s.modifyCar p f).raceClock = s.raceClock := rfl

@[simp] theorem State.modifyCar_raaPointer (s : State) (p : Port) (f : Car → Car) :
    (s.modifyCar p f).raaPointer = s.raaPointer := rfl

@[simp] theorem State.modifyCar_race (s : State) (p : Port) (f : Car → Car) :
    (s.modifyCar p f).race = s.race := rfl

@[simp] theorem State.modifyCar_course (s : State) (p : Port) (f : Car → Car) :
    (s.modifyCar p f).course = s.course := rfl

@[simp] theorem State.modifyCar_entryList (s : State) (p : Port) (f : Car → Car) :
    (s.modifyCar p f).entryList = s.entryList := rfl

@[simp] theorem State.modifyCar_activeGroup (s : State) (p : Port) (f : Car → Car) :
    (s.modifyCar p f).activeGroup = s.activeGroup := rfl

@[simp] theorem State.modifyCar_retiredGroup (s : State) (p : Port) (f : Car → Car) :
    (s.modifyCar p f).retiredGroup = s.retiredGroup := rfl

@[simp] theorem State.modifyCar_finishList (s : State) (p : Port) (f : Car → Car) :
    (s.modifyCar p f).finishList = s.finishList := rfl

@[simp] theorem State.modifyCar_resultsTable (s : State) (p : Port) (f : Car → Car) :
    (s.modifyCar p f).resultsTable = s.resultsTable := rfl

@[simp] theorem State.modifyCar_ports (s : State) (p : Port) (f : Car → Car) :
    (s.modifyCar p f).ports = s.ports := rfl

/-! ### modifyRace -/

@[simp] theorem State.modifyRace_pending (s : State) (f : RaceRecord → RaceRecord) :
    (s.modifyRace f).pending = s.pending := rfl

@[simp] theorem State.modifyRace_tickCount (s : State) (f : RaceRecord → RaceRecord) :
    (s.modifyRace f).tickCount = s.tickCount := rfl

@[simp] theorem State.modifyRace_raceClock (s : State) (f : RaceRecord → RaceRecord) :
    (s.modifyRace f).raceClock = s.raceClock := rfl

@[simp] theorem State.modifyRace_raaPointer (s : State) (f : RaceRecord → RaceRecord) :
    (s.modifyRace f).raaPointer = s.raaPointer := rfl

@[simp] theorem State.modifyRace_course (s : State) (f : RaceRecord → RaceRecord) :
    (s.modifyRace f).course = s.course := rfl

@[simp] theorem State.modifyRace_cars (s : State) (f : RaceRecord → RaceRecord) :
    (s.modifyRace f).cars = s.cars := rfl

@[simp] theorem State.modifyRace_entryList (s : State) (f : RaceRecord → RaceRecord) :
    (s.modifyRace f).entryList = s.entryList := rfl

@[simp] theorem State.modifyRace_activeGroup (s : State) (f : RaceRecord → RaceRecord) :
    (s.modifyRace f).activeGroup = s.activeGroup := rfl

@[simp] theorem State.modifyRace_retiredGroup (s : State) (f : RaceRecord → RaceRecord) :
    (s.modifyRace f).retiredGroup = s.retiredGroup := rfl

@[simp] theorem State.modifyRace_finishList (s : State) (f : RaceRecord → RaceRecord) :
    (s.modifyRace f).finishList = s.finishList := rfl

@[simp] theorem State.modifyRace_resultsTable (s : State) (f : RaceRecord → RaceRecord) :
    (s.modifyRace f).resultsTable = s.resultsTable := rfl

@[simp] theorem State.modifyRace_ports (s : State) (f : RaceRecord → RaceRecord) :
    (s.modifyRace f).ports = s.ports := rfl

/-! ### notify -/

@[simp] theorem State.notify_pending (s : State) (sel : Port → Bool) (n : Notice) :
    (s.notify sel n).pending = s.pending := rfl

@[simp] theorem State.notify_tickCount (s : State) (sel : Port → Bool) (n : Notice) :
    (s.notify sel n).tickCount = s.tickCount := rfl

@[simp] theorem State.notify_raceClock (s : State) (sel : Port → Bool) (n : Notice) :
    (s.notify sel n).raceClock = s.raceClock := rfl

@[simp] theorem State.notify_raaPointer (s : State) (sel : Port → Bool) (n : Notice) :
    (s.notify sel n).raaPointer = s.raaPointer := rfl

@[simp] theorem State.notify_race (s : State) (sel : Port → Bool) (n : Notice) :
    (s.notify sel n).race = s.race := rfl

@[simp] theorem State.notify_course (s : State) (sel : Port → Bool) (n : Notice) :
    (s.notify sel n).course = s.course := rfl

@[simp] theorem State.notify_cars (s : State) (sel : Port → Bool) (n : Notice) :
    (s.notify sel n).cars = s.cars := rfl

@[simp] theorem State.notify_entryList (s : State) (sel : Port → Bool) (n : Notice) :
    (s.notify sel n).entryList = s.entryList := rfl

@[simp] theorem State.notify_activeGroup (s : State) (sel : Port → Bool) (n : Notice) :
    (s.notify sel n).activeGroup = s.activeGroup := rfl

@[simp] theorem State.notify_retiredGroup (s : State) (sel : Port → Bool) (n : Notice) :
    (s.notify sel n).retiredGroup = s.retiredGroup := rfl

@[simp] theorem State.notify_finishList (s : State) (sel : Port → Bool) (n : Notice) :
    (s.notify sel n).finishList = s.finishList := rfl

@[simp] theorem State.notify_resultsTable (s : State) (sel : Port → Bool) (n : Notice) :
    (s.notify sel n).resultsTable = s.resultsTable := rfl

/-! ### notifyRace -/

@[simp] theorem State.notifyRace_pending (s : State) (n : Notice) :
    (s.notifyRace n).pending = s.pending := rfl

@[simp] theorem State.notifyRace_tickCount (s : State) (n : Notice) :
    (s.notifyRace n).tickCount = s.tickCount := rfl

@[simp] theorem State.notifyRace_raceClock (s : State) (n : Notice) :
    (s.notifyRace n).raceClock = s.raceClock := rfl

@[simp] theorem State.notifyRace_raaPointer (s : State) (n : Notice) :
    (s.notifyRace n).raaPointer = s.raaPointer := rfl

@[simp] theorem State.notifyRace_race (s : State) (n : Notice) :
    (s.notifyRace n).race = s.race := rfl

@[simp] theorem State.notifyRace_course (s : State) (n : Notice) :
    (s.notifyRace n).course = s.course := rfl

@[simp] theorem State.notifyRace_cars (s : State) (n : Notice) :
    (s.notifyRace n).cars = s.cars := rfl

@[simp] theorem State.notifyRace_entryList (s : State) (n : Notice) :
    (s.notifyRace n).entryList = s.entryList := rfl

@[simp] theorem State.notifyRace_activeGroup (s : State) (n : Notice) :
    (s.notifyRace n).activeGroup = s.activeGroup := rfl

@[simp] theorem State.notifyRace_retiredGroup (s : State) (n : Notice) :
    (s.notifyRace n).retiredGroup = s.retiredGroup := rfl

@[simp] theorem State.notifyRace_finishList (s : State) (n : Notice) :
    (s.notifyRace n).finishList = s.finishList := rfl

@[simp] theorem State.notifyRace_resultsTable (s : State) (n : Notice) :
    (s.notifyRace n).resultsTable = s.resultsTable := rfl

/-! ### notifyOwn -/

@[simp] theorem State.notifyOwn_pending (s : State) (p : Port) (n : Notice) :
    (s.notifyOwn p n).pending = s.pending := rfl

@[simp] theorem State.notifyOwn_tickCount (s : State) (p : Port) (n : Notice) :
    (s.notifyOwn p n).tickCount = s.tickCount := rfl

@[simp] theorem State.notifyOwn_raceClock (s : State) (p : Port) (n : Notice) :
    (s.notifyOwn p n).raceClock = s.raceClock := rfl

@[simp] theorem State.notifyOwn_raaPointer (s : State) (p : Port) (n : Notice) :
    (s.notifyOwn p n).raaPointer = s.raaPointer := rfl

@[simp] theorem State.notifyOwn_race (s : State) (p : Port) (n : Notice) :
    (s.notifyOwn p n).race = s.race := rfl

@[simp] theorem State.notifyOwn_course (s : State) (p : Port) (n : Notice) :
    (s.notifyOwn p n).course = s.course := rfl

@[simp] theorem State.notifyOwn_cars (s : State) (p : Port) (n : Notice) :
    (s.notifyOwn p n).cars = s.cars := rfl

@[simp] theorem State.notifyOwn_entryList (s : State) (p : Port) (n : Notice) :
    (s.notifyOwn p n).entryList = s.entryList := rfl

@[simp] theorem State.notifyOwn_activeGroup (s : State) (p : Port) (n : Notice) :
    (s.notifyOwn p n).activeGroup = s.activeGroup := rfl

@[simp] theorem State.notifyOwn_retiredGroup (s : State) (p : Port) (n : Notice) :
    (s.notifyOwn p n).retiredGroup = s.retiredGroup := rfl

@[simp] theorem State.notifyOwn_finishList (s : State) (p : Port) (n : Notice) :
    (s.notifyOwn p n).finishList = s.finishList := rfl

@[simp] theorem State.notifyOwn_resultsTable (s : State) (p : Port) (n : Notice) :
    (s.notifyOwn p n).resultsTable = s.resultsTable := rfl

/-! ### notifyPhase -/

@[simp] theorem State.notifyPhase_pending (s : State) (r : PhaseReport) :
    (s.notifyPhase r).pending = s.pending := rfl

@[simp] theorem State.notifyPhase_tickCount (s : State) (r : PhaseReport) :
    (s.notifyPhase r).tickCount = s.tickCount := rfl

@[simp] theorem State.notifyPhase_raceClock (s : State) (r : PhaseReport) :
    (s.notifyPhase r).raceClock = s.raceClock := rfl

@[simp] theorem State.notifyPhase_raaPointer (s : State) (r : PhaseReport) :
    (s.notifyPhase r).raaPointer = s.raaPointer := rfl

@[simp] theorem State.notifyPhase_race (s : State) (r : PhaseReport) :
    (s.notifyPhase r).race = s.race := rfl

@[simp] theorem State.notifyPhase_course (s : State) (r : PhaseReport) :
    (s.notifyPhase r).course = s.course := rfl

@[simp] theorem State.notifyPhase_cars (s : State) (r : PhaseReport) :
    (s.notifyPhase r).cars = s.cars := rfl

@[simp] theorem State.notifyPhase_entryList (s : State) (r : PhaseReport) :
    (s.notifyPhase r).entryList = s.entryList := rfl

@[simp] theorem State.notifyPhase_activeGroup (s : State) (r : PhaseReport) :
    (s.notifyPhase r).activeGroup = s.activeGroup := rfl

@[simp] theorem State.notifyPhase_retiredGroup (s : State) (r : PhaseReport) :
    (s.notifyPhase r).retiredGroup = s.retiredGroup := rfl

@[simp] theorem State.notifyPhase_finishList (s : State) (r : PhaseReport) :
    (s.notifyPhase r).finishList = s.finishList := rfl

@[simp] theorem State.notifyPhase_resultsTable (s : State) (r : PhaseReport) :
    (s.notifyPhase r).resultsTable = s.resultsTable := rfl

/-! ### appendEntry -/

@[simp] theorem State.appendEntry_pending (s : State) (p : Port) :
    (s.appendEntry p).pending = s.pending := rfl

@[simp] theorem State.appendEntry_tickCount (s : State) (p : Port) :
    (s.appendEntry p).tickCount = s.tickCount := rfl

@[simp] theorem State.appendEntry_raceClock (s : State) (p : Port) :
    (s.appendEntry p).raceClock = s.raceClock := rfl

@[simp] theorem State.appendEntry_raaPointer (s : State) (p : Port) :
    (s.appendEntry p).raaPointer = s.raaPointer := rfl

@[simp] theorem State.appendEntry_race (s : State) (p : Port) :
    (s.appendEntry p).race = s.race := rfl

@[simp] theorem State.appendEntry_course (s : State) (p : Port) :
    (s.appendEntry p).course = s.course := rfl

@[simp] theorem State.appendEntry_activeGroup (s : State) (p : Port) :
    (s.appendEntry p).activeGroup = s.activeGroup := rfl

@[simp] theorem State.appendEntry_retiredGroup (s : State) (p : Port) :
    (s.appendEntry p).retiredGroup = s.retiredGroup := rfl

@[simp] theorem State.appendEntry_finishList (s : State) (p : Port) :
    (s.appendEntry p).finishList = s.finishList := rfl

@[simp] theorem State.appendEntry_resultsTable (s : State) (p : Port) :
    (s.appendEntry p).resultsTable = s.resultsTable := rfl

@[simp] theorem State.appendEntry_ports (s : State) (p : Port) :
    (s.appendEntry p).ports = s.ports := rfl

/-! ### removeEntry -/

@[simp] theorem State.removeEntry_pending (s : State) (p : Port) (n : Nat) :
    (s.removeEntry p n).pending = s.pending := rfl

@[simp] theorem State.removeEntry_tickCount (s : State) (p : Port) (n : Nat) :
    (s.removeEntry p n).tickCount = s.tickCount := rfl

@[simp] theorem State.removeEntry_raceClock (s : State) (p : Port) (n : Nat) :
    (s.removeEntry p n).raceClock = s.raceClock := rfl

@[simp] theorem State.removeEntry_raaPointer (s : State) (p : Port) (n : Nat) :
    (s.removeEntry p n).raaPointer = s.raaPointer := rfl

@[simp] theorem State.removeEntry_race (s : State) (p : Port) (n : Nat) :
    (s.removeEntry p n).race = s.race := rfl

@[simp] theorem State.removeEntry_course (s : State) (p : Port) (n : Nat) :
    (s.removeEntry p n).course = s.course := rfl

@[simp] theorem State.removeEntry_activeGroup (s : State) (p : Port) (n : Nat) :
    (s.removeEntry p n).activeGroup = s.activeGroup := rfl

@[simp] theorem State.removeEntry_retiredGroup (s : State) (p : Port) (n : Nat) :
    (s.removeEntry p n).retiredGroup = s.retiredGroup := rfl

@[simp] theorem State.removeEntry_finishList (s : State) (p : Port) (n : Nat) :
    (s.removeEntry p n).finishList = s.finishList := rfl

@[simp] theorem State.removeEntry_resultsTable (s : State) (p : Port) (n : Nat) :
    (s.removeEntry p n).resultsTable = s.resultsTable := rfl

@[simp] theorem State.removeEntry_ports (s : State) (p : Port) (n : Nat) :
    (s.removeEntry p n).ports = s.ports := rfl

/-! ### reinsert -/

@[simp] theorem State.reinsert_pending (s : State) (p : Port) :
    (s.reinsert p).pending = s.pending := rfl

@[simp] theorem State.reinsert_tickCount (s : State) (p : Port) :
    (s.reinsert p).tickCount = s.tickCount := rfl

@[simp] theorem State.reinsert_raceClock (s : State) (p : Port) :
    (s.reinsert p).raceClock = s.raceClock := rfl

@[simp] theorem State.reinsert_raaPointer (s : State) (p : Port) :
    (s.reinsert p).raaPointer = s.raaPointer := rfl

@[simp] theorem State.reinsert_race (s : State) (p : Port) :
    (s.reinsert p).race = s.race := rfl

@[simp] theorem State.reinsert_course (s : State) (p : Port) :
    (s.reinsert p).course = s.course := rfl

@[simp] theorem State.reinsert_cars (s : State) (p : Port) :
    (s.reinsert p).cars = s.cars := rfl

@[simp] theorem State.reinsert_entryList (s : State) (p : Port) :
    (s.reinsert p).entryList = s.entryList := rfl

@[simp] theorem State.reinsert_retiredGroup (s : State) (p : Port) :
    (s.reinsert p).retiredGroup = s.retiredGroup := rfl

@[simp] theorem State.reinsert_finishList (s : State) (p : Port) :
    (s.reinsert p).finishList = s.finishList := rfl

@[simp] theorem State.reinsert_resultsTable (s : State) (p : Port) :
    (s.reinsert p).resultsTable = s.resultsTable := rfl

@[simp] theorem State.reinsert_ports (s : State) (p : Port) :
    (s.reinsert p).ports = s.ports := rfl

/-! ### finishMove -/

@[simp] theorem State.finishMove_pending (s : State) (p : Port) :
    (s.finishMove p).pending = s.pending := rfl

@[simp] theorem State.finishMove_tickCount (s : State) (p : Port) :
    (s.finishMove p).tickCount = s.tickCount := rfl

@[simp] theorem State.finishMove_raceClock (s : State) (p : Port) :
    (s.finishMove p).raceClock = s.raceClock := rfl

@[simp] theorem State.finishMove_raaPointer (s : State) (p : Port) :
    (s.finishMove p).raaPointer = s.raaPointer := rfl

@[simp] theorem State.finishMove_race (s : State) (p : Port) :
    (s.finishMove p).race = s.race := rfl

@[simp] theorem State.finishMove_course (s : State) (p : Port) :
    (s.finishMove p).course = s.course := rfl

@[simp] theorem State.finishMove_cars (s : State) (p : Port) :
    (s.finishMove p).cars = s.cars := rfl

@[simp] theorem State.finishMove_entryList (s : State) (p : Port) :
    (s.finishMove p).entryList = s.entryList := rfl

@[simp] theorem State.finishMove_retiredGroup (s : State) (p : Port) :
    (s.finishMove p).retiredGroup = s.retiredGroup := rfl

@[simp] theorem State.finishMove_finishList (s : State) (p : Port) :
    (s.finishMove p).finishList = s.finishList := rfl

@[simp] theorem State.finishMove_resultsTable (s : State) (p : Port) :
    (s.finishMove p).resultsTable = s.resultsTable := rfl

@[simp] theorem State.finishMove_ports (s : State) (p : Port) :
    (s.finishMove p).ports = s.ports := rfl

/-! ### retirementMove -/

@[simp] theorem State.retirementMove_pending (s : State) (p : Port) :
    (s.retirementMove p).pending = s.pending := rfl

@[simp] theorem State.retirementMove_tickCount (s : State) (p : Port) :
    (s.retirementMove p).tickCount = s.tickCount := rfl

@[simp] theorem State.retirementMove_raceClock (s : State) (p : Port) :
    (s.retirementMove p).raceClock = s.raceClock := rfl

@[simp] theorem State.retirementMove_raaPointer (s : State) (p : Port) :
    (s.retirementMove p).raaPointer = s.raaPointer := rfl

@[simp] theorem State.retirementMove_race (s : State) (p : Port) :
    (s.retirementMove p).race = s.race := rfl

@[simp] theorem State.retirementMove_course (s : State) (p : Port) :
    (s.retirementMove p).course = s.course := rfl

@[simp] theorem State.retirementMove_cars (s : State) (p : Port) :
    (s.retirementMove p).cars = s.cars := rfl

@[simp] theorem State.retirementMove_entryList (s : State) (p : Port) :
    (s.retirementMove p).entryList = s.entryList := rfl

@[simp] theorem State.retirementMove_finishList (s : State) (p : Port) :
    (s.retirementMove p).finishList = s.finishList := rfl

@[simp] theorem State.retirementMove_resultsTable (s : State) (p : Port) :
    (s.retirementMove p).resultsTable = s.resultsTable := rfl

@[simp] theorem State.retirementMove_ports (s : State) (p : Port) :
    (s.retirementMove p).ports = s.ports := rfl

/-! ### stopRace -/

@[simp] theorem State.stopRace_pending (s : State) (r : Reason) :
    (s.stopRace r).pending = s.pending := rfl

@[simp] theorem State.stopRace_tickCount (s : State) (r : Reason) :
    (s.stopRace r).tickCount = s.tickCount := rfl

@[simp] theorem State.stopRace_raceClock (s : State) (r : Reason) :
    (s.stopRace r).raceClock = s.raceClock := rfl

@[simp] theorem State.stopRace_raaPointer (s : State) (r : Reason) :
    (s.stopRace r).raaPointer = s.raaPointer := rfl

@[simp] theorem State.stopRace_course (s : State) (r : Reason) :
    (s.stopRace r).course = s.course := rfl

@[simp] theorem State.stopRace_entryList (s : State) (r : Reason) :
    (s.stopRace r).entryList = s.entryList := rfl

@[simp] theorem State.stopRace_activeGroup (s : State) (r : Reason) :
    (s.stopRace r).activeGroup = s.activeGroup := rfl

@[simp] theorem State.stopRace_retiredGroup (s : State) (r : Reason) :
    (s.stopRace r).retiredGroup = s.retiredGroup := rfl

@[simp] theorem State.stopRace_finishList (s : State) (r : Reason) :
    (s.stopRace r).finishList = s.finishList := rfl

@[simp] theorem State.stopRace_resultsTable (s : State) (r : Reason) :
    (s.stopRace r).resultsTable = s.resultsTable := rfl

@[simp] theorem State.stopRace_ports (s : State) (r : Reason) :
    (s.stopRace r).ports = s.ports := rfl

/-! ### openResults -/

@[simp] theorem State.openResults_pending (s : State) (r : Reason) :
    (s.openResults r).pending = s.pending := rfl

@[simp] theorem State.openResults_tickCount (s : State) (r : Reason) :
    (s.openResults r).tickCount = s.tickCount := rfl

@[simp] theorem State.openResults_raceClock (s : State) (r : Reason) :
    (s.openResults r).raceClock = s.raceClock := rfl

@[simp] theorem State.openResults_raaPointer (s : State) (r : Reason) :
    (s.openResults r).raaPointer = s.raaPointer := rfl

@[simp] theorem State.openResults_course (s : State) (r : Reason) :
    (s.openResults r).course = s.course := rfl

@[simp] theorem State.openResults_cars (s : State) (r : Reason) :
    (s.openResults r).cars = s.cars := rfl

@[simp] theorem State.openResults_entryList (s : State) (r : Reason) :
    (s.openResults r).entryList = s.entryList := rfl

@[simp] theorem State.openResults_activeGroup (s : State) (r : Reason) :
    (s.openResults r).activeGroup = s.activeGroup := rfl

@[simp] theorem State.openResults_retiredGroup (s : State) (r : Reason) :
    (s.openResults r).retiredGroup = s.retiredGroup := rfl

@[simp] theorem State.openResults_finishList (s : State) (r : Reason) :
    (s.openResults r).finishList = s.finishList := rfl

@[simp] theorem State.openResults_ports (s : State) (r : Reason) :
    (s.openResults r).ports = s.ports := rfl

/-! ### countTick -/

@[simp] theorem State.countTick_pending (s : State) :
    (s.countTick).pending = s.pending := rfl

@[simp] theorem State.countTick_raaPointer (s : State) :
    (s.countTick).raaPointer = s.raaPointer := rfl

@[simp] theorem State.countTick_course (s : State) :
    (s.countTick).course = s.course := rfl

@[simp] theorem State.countTick_cars (s : State) :
    (s.countTick).cars = s.cars := rfl

@[simp] theorem State.countTick_entryList (s : State) :
    (s.countTick).entryList = s.entryList := rfl

@[simp] theorem State.countTick_activeGroup (s : State) :
    (s.countTick).activeGroup = s.activeGroup := rfl

@[simp] theorem State.countTick_retiredGroup (s : State) :
    (s.countTick).retiredGroup = s.retiredGroup := rfl

@[simp] theorem State.countTick_finishList (s : State) :
    (s.countTick).finishList = s.finishList := rfl

@[simp] theorem State.countTick_resultsTable (s : State) :
    (s.countTick).resultsTable = s.resultsTable := rfl

/-! ### What a port or a car reads after an update -/

theorem State.modifyPort_port (s : State) (p q : Port) (f : PortState → PortState) :
    (s.modifyPort p f).port q = if q = p then f (s.port p) else s.port q := by
  simp only [State.port, State.modifyPort, Bank.get_set]

@[simp] theorem State.modifyPort_port_self (s : State) (p : Port) (f : PortState → PortState) :
    (s.modifyPort p f).port p = f (s.port p) := by
  simp [State.modifyPort_port]

theorem State.modifyPort_port_ne (s : State) {p q : Port} (f : PortState → PortState) (h : q ≠ p) :
    (s.modifyPort p f).port q = s.port q := by
  simp [State.modifyPort_port, h]

@[simp] theorem State.modifyPort_car (s : State) (p q : Port) (f : PortState → PortState) :
    (s.modifyPort p f).car q = s.car q := rfl

@[simp] theorem State.modifyRace_car (s : State) (q : Port) (f : RaceRecord → RaceRecord) :
    (s.modifyRace f).car q = s.car q := rfl

@[simp] theorem State.modifyRace_port (s : State) (q : Port) (f : RaceRecord → RaceRecord) :
    (s.modifyRace f).port q = s.port q := rfl

@[simp] theorem State.modifyRace_race (s : State) (f : RaceRecord → RaceRecord) :
    (s.modifyRace f).race = f s.race := rfl

@[simp] theorem State.modifyCar_port (s : State) (p q : Port) (f : Car → Car) :
    (s.modifyCar p f).port q = s.port q := rfl

theorem State.modifyCar_car (s : State) (p q : Port) (f : Car → Car) :
    (s.modifyCar p f).car q = if q = p then (s.car p).map f else s.car q := by
  simp only [State.car, State.modifyCar, Bank.get_set]

@[simp] theorem State.modifyCar_car_self (s : State) (p : Port) (f : Car → Car) :
    (s.modifyCar p f).car p = (s.car p).map f := by
  simp [State.modifyCar_car]

theorem State.modifyCar_car_ne (s : State) {p q : Port} (f : Car → Car) (h : q ≠ p) :
    (s.modifyCar p f).car q = s.car q := by
  simp [State.modifyCar_car, h]

@[simp] theorem State.notify_car (s : State) (sel : Port → Bool) (n : Notice) (q : Port) :
    (s.notify sel n).car q = s.car q := rfl

@[simp] theorem State.notifyRace_car (s : State) (n : Notice) (q : Port) :
    (s.notifyRace n).car q = s.car q := rfl

@[simp] theorem State.notifyOwn_car (s : State) (p : Port) (n : Notice) (q : Port) :
    (s.notifyOwn p n).car q = s.car q := rfl

@[simp] theorem State.notifyPhase_car (s : State) (r : PhaseReport) (q : Port) :
    (s.notifyPhase r).car q = s.car q := rfl

theorem State.notify_port (s : State) (sel : Port → Bool) (n : Notice) (q : Port) :
    (s.notify sel n).port q = if sel q then (s.port q).offer n else s.port q := by
  simp [State.port, State.notify]

theorem State.notifyRace_port (s : State) (n : Notice) (q : Port) :
    (s.notifyRace n).port q = if s.isRacePort q then (s.port q).offer n else s.port q :=
  State.notify_port s _ n q

theorem State.notifyOwn_port (s : State) (p : Port) (n : Notice) (q : Port) :
    (s.notifyOwn p n).port q = if q = p then (s.port q).offer n else s.port q := by
  simp [State.notifyOwn, State.notify_port]

theorem State.notifyPhase_port (s : State) (r : PhaseReport) (q : Port) :
    (s.notifyPhase r).port q =
      if s.isPresentPort q then (s.port q).offer (.phase r s.race.number) else s.port q :=
  State.notify_port s _ _ q

/-- A state is known from its fields other than the ports, and from what each port reads. -/
theorem State.ext_ports {s t : State} (h : t = { s with ports := t.ports })
    (hp : ∀ p : Port, t.port p = s.port p) : t = s := by
  have e : t.ports = s.ports := Bank.ext_get hp
  rw [h, e]

end Machine
end Sys2Proof
end

