-- ==== Sys2Proof/Laws/Ops.lean ====
section
/-! SUPPORT. One lemma for each shared operation over ports, notices, grants and answers: what it can do,
so that a proof cites it and does not unfold the operation. -/
namespace Sys2Proof.Machine

/-! ### Ports under notices -/

theorem PortState.SameButNotices.refl (c : PortState) : c.SameButNotices c := rfl

theorem PortState.SameButNotices.trans {c d e : PortState} (h : c.SameButNotices d)
    (k : d.SameButNotices e) : c.SameButNotices e := by
  unfold PortState.SameButNotices at *
  rw [k, h]

/-- An offer touches the notice queue and the overflow condition alone (R162). -/
theorem PortState.offer_same (n : Notice) (c : PortState) : c.SameButNotices (c.offer n) := by
  unfold PortState.SameButNotices PortState.offer
  cases c with
  | mk link =>
    cases link
    · rfl
    · dsimp only
      split <;> rfl

@[simp] theorem PortState.offer_link (n : Notice) (c : PortState) : (c.offer n).link = c.link := by
  rw [PortState.offer_same n c]

@[simp] theorem PortState.offer_badChecks (n : Notice) (c : PortState) :
    (c.offer n).badChecks = c.badChecks := by
  rw [PortState.offer_same n c]

@[simp] theorem PortState.offer_receiver (n : Notice) (c : PortState) :
    (c.offer n).receiver = c.receiver := by
  rw [PortState.offer_same n c]

@[simp] theorem PortState.offer_requestQueue (n : Notice) (c : PortState) :
    (c.offer n).requestQueue = c.requestQueue := by
  rw [PortState.offer_same n c]

@[simp] theorem PortState.offer_responseQueue (n : Notice) (c : PortState) :
    (c.offer n).responseQueue = c.responseQueue := by
  rw [PortState.offer_same n c]

@[simp] theorem PortState.offer_pushInterval (n : Notice) (c : PortState) :
    (c.offer n).pushInterval = c.pushInterval := by
  rw [PortState.offer_same n c]

@[simp] theorem PortState.offer_pushTimer (n : Notice) (c : PortState) :
    (c.offer n).pushTimer = c.pushTimer := by
  rw [PortState.offer_same n c]

@[simp] theorem PortState.offer_pushSlot (n : Notice) (c : PortState) :
    (c.offer n).pushSlot = c.pushSlot := by
  rw [PortState.offer_same n c]

@[simp] theorem PortState.offer_sending (n : Notice) (c : PortState) :
    (c.offer n).sending = c.sending := by
  rw [PortState.offer_same n c]

@[simp] theorem PortState.offer_presence (n : Notice) (c : PortState) :
    (c.offer n).presence = c.presence := by
  rw [PortState.offer_same n c]

@[simp] theorem PortState.offer_silence (n : Notice) (c : PortState) :
    (c.offer n).silence = c.silence := by
  rw [PortState.offer_same n c]

@[simp] theorem PortState.offer_errorRecord (n : Notice) (c : PortState) :
    (c.offer n).errorRecord = c.errorRecord := by
  rw [PortState.offer_same n c]

@[simp] theorem PortState.offer_fenced (n : Notice) (c : PortState) :
    (c.offer n).fenced = c.fenced := by
  rw [PortState.offer_same n c]

/-- A port whose link is DOWN takes no notice (R162). -/
theorem PortState.offer_down {c : PortState} (n : Notice) (h : c.link = .down) : c.offer n = c := by
  unfold PortState.offer
  rw [h]

/-! ### The request that leaves and the response that is placed -/

@[simp] theorem PortState.dropRequest_link (c : PortState) : c.dropRequest.link = c.link := rfl

@[simp] theorem PortState.dropRequest_badChecks (c : PortState) :
    c.dropRequest.badChecks = c.badChecks := rfl

@[simp] theorem PortState.dropRequest_receiver (c : PortState) : c.dropRequest.receiver = c.receiver := rfl

@[simp] theorem PortState.dropRequest_requestQueue (c : PortState) :
    c.dropRequest.requestQueue = c.requestQueue.tail := rfl

@[simp] theorem PortState.dropRequest_responseQueue (c : PortState) :
    c.dropRequest.responseQueue = c.responseQueue := rfl

@[simp] theorem PortState.dropRequest_noticeQueue (c : PortState) :
    c.dropRequest.noticeQueue = c.noticeQueue := rfl

@[simp] theorem PortState.dropRequest_overflow (c : PortState) : c.dropRequest.overflow = c.overflow := rfl

@[simp] theorem PortState.dropRequest_pushInterval (c : PortState) :
    c.dropRequest.pushInterval = c.pushInterval := rfl

@[simp] theorem PortState.dropRequest_pushTimer (c : PortState) :
    c.dropRequest.pushTimer = c.pushTimer := rfl

@[simp] theorem PortState.dropRequest_pushSlot (c : PortState) : c.dropRequest.pushSlot = c.pushSlot := rfl

@[simp] theorem PortState.dropRequest_sending (c : PortState) : c.dropRequest.sending = c.sending := rfl

@[simp] theorem PortState.dropRequest_presence (c : PortState) : c.dropRequest.presence = c.presence := rfl

@[simp] theorem PortState.dropRequest_silence (c : PortState) : c.dropRequest.silence = c.silence := rfl

@[simp] theorem PortState.dropRequest_errorRecord (c : PortState) :
    c.dropRequest.errorRecord = c.errorRecord := rfl

@[simp] theorem PortState.dropRequest_fenced (c : PortState) : c.dropRequest.fenced = c.fenced := rfl

@[simp] theorem PortState.respond_link (r : Response) (c : PortState) :
    (c.respond r).link = c.link := rfl

@[simp] theorem PortState.respond_badChecks (r : Response) (c : PortState) :
    (c.respond r).badChecks = c.badChecks := rfl

@[simp] theorem PortState.respond_receiver (r : Response) (c : PortState) :
    (c.respond r).receiver = c.receiver := rfl

@[simp] theorem PortState.respond_requestQueue (r : Response) (c : PortState) :
    (c.respond r).requestQueue = c.requestQueue := rfl

@[simp] theorem PortState.respond_responseQueue (r : Response) (c : PortState) :
    (c.respond r).responseQueue = c.responseQueue ++ [r] := rfl

@[simp] theorem PortState.respond_noticeQueue (r : Response) (c : PortState) :
    (c.respond r).noticeQueue = c.noticeQueue := rfl

@[simp] theorem PortState.respond_overflow (r : Response) (c : PortState) :
    (c.respond r).overflow = c.overflow := rfl

@[simp] theorem PortState.respond_pushInterval (r : Response) (c : PortState) :
    (c.respond r).pushInterval = c.pushInterval := rfl

@[simp] theorem PortState.respond_pushTimer (r : Response) (c : PortState) :
    (c.respond r).pushTimer = c.pushTimer := rfl

@[simp] theorem PortState.respond_pushSlot (r : Response) (c : PortState) :
    (c.respond r).pushSlot = c.pushSlot := rfl

@[simp] theorem PortState.respond_sending (r : Response) (c : PortState) :
    (c.respond r).sending = c.sending := rfl

@[simp] theorem PortState.respond_presence (r : Response) (c : PortState) :
    (c.respond r).presence = c.presence := rfl

@[simp] theorem PortState.respond_silence (r : Response) (c : PortState) :
    (c.respond r).silence = c.silence := rfl

@[simp] theorem PortState.respond_errorRecord (r : Response) (c : PortState) :
    (c.respond r).errorRecord = c.errorRecord := rfl

@[simp] theorem PortState.respond_fenced (r : Response) (c : PortState) :
    (c.respond r).fenced = c.fenced := rfl

/-! ### States that differ in notices alone -/

/-- The state is the same but for the notice queues and the overflow conditions of the ports. -/
structure State.OnlyNotices (s t : State) : Prop where
  rest : t = { s with ports := t.ports }
  ports : ∀ q : Port, (s.port q).SameButNotices (t.port q)

theorem State.OnlyNotices.refl (s : State) : s.OnlyNotices s := ⟨rfl, fun _ => rfl⟩

theorem State.OnlyNotices.trans {s t u : State} (h : s.OnlyNotices t) (k : t.OnlyNotices u) :
    s.OnlyNotices u :=
  ⟨by rw [k.rest, h.rest], fun q => (h.ports q).trans (k.ports q)⟩

/-- A notice generated for any ports changes nothing else (R160). -/
theorem State.notify_only (sel : Port → Bool) (n : Notice) (s : State) :
    s.OnlyNotices (s.notify sel n) := by
  refine ⟨rfl, fun q => ?_⟩
  rw [State.notify_port]
  split
  · exact PortState.offer_same n _
  · rfl

theorem State.notifyRace_only (n : Notice) (s : State) : s.OnlyNotices (s.notifyRace n) :=
  State.notify_only _ n s

theorem State.notifyOwn_only (p : Port) (n : Notice) (s : State) : s.OnlyNotices (s.notifyOwn p n) :=
  State.notify_only _ n s

theorem State.notifyPhase_only (r : PhaseReport) (s : State) : s.OnlyNotices (s.notifyPhase r) :=
  State.notify_only _ _ s

theorem State.notifyVotes_only (s : State) : s.OnlyNotices s.notifyVotes := State.notify_only _ _ s

/-- The POSITION notices of a move change nothing else (R100). -/
theorem State.notifyPositions_only (old new : List Port) (s : State) :
    s.OnlyNotices (s.notifyPositions old new) := by
  unfold State.notifyPositions
  generalize new.zipIdx = entries
  induction entries generalizing s with
  | nil => exact .refl s
  | cons e rest ih =>
    rw [List.foldl_cons]
    refine State.OnlyNotices.trans ?_ (ih _)
    split
    · exact .refl s
    · split
      · exact .refl s
      · exact State.notifyOwn_only _ _ s

theorem State.notifyLeader_only (old new : List Port) (s : State) :
    s.OnlyNotices (s.notifyLeader old new) := by
  unfold State.notifyLeader
  split
  · exact .refl s
  · split
    · exact .refl s
    · exact State.notifyRace_only _ s

/-- The notices of a move change nothing else (R100, R101). -/
theorem State.notifyMove_only (old : List Port) (s : State) : s.OnlyNotices (s.notifyMove old) :=
  (State.notifyPositions_only old _ s).trans (State.notifyLeader_only old _ _)

@[simp] theorem State.notifyMove_pending (old : List Port) (s : State) :
    (s.notifyMove old).pending = s.pending := by
  rw [(State.notifyMove_only old s).rest]

@[simp] theorem State.notifyMove_tickCount (old : List Port) (s : State) :
    (s.notifyMove old).tickCount = s.tickCount := by
  rw [(State.notifyMove_only old s).rest]

@[simp] theorem State.notifyMove_raceClock (old : List Port) (s : State) :
    (s.notifyMove old).raceClock = s.raceClock := by
  rw [(State.notifyMove_only old s).rest]

@[simp] theorem State.notifyMove_raaPointer (old : List Port) (s : State) :
    (s.notifyMove old).raaPointer = s.raaPointer := by
  rw [(State.notifyMove_only old s).rest]

@[simp] theorem State.notifyMove_race (old : List Port) (s : State) :
    (s.notifyMove old).race = s.race := by
  rw [(State.notifyMove_only old s).rest]

@[simp] theorem State.notifyMove_course (old : List Port) (s : State) :
    (s.notifyMove old).course = s.course := by
  rw [(State.notifyMove_only old s).rest]

@[simp] theorem State.notifyMove_cars (old : List Port) (s : State) :
    (s.notifyMove old).cars = s.cars := by
  rw [(State.notifyMove_only old s).rest]

@[simp] theorem State.notifyMove_entryList (old : List Port) (s : State) :
    (s.notifyMove old).entryList = s.entryList := by
  rw [(State.notifyMove_only old s).rest]

@[simp] theorem State.notifyMove_activeGroup (old : List Port) (s : State) :
    (s.notifyMove old).activeGroup = s.activeGroup := by
  rw [(State.notifyMove_only old s).rest]

@[simp] theorem State.notifyMove_retiredGroup (old : List Port) (s : State) :
    (s.notifyMove old).retiredGroup = s.retiredGroup := by
  rw [(State.notifyMove_only old s).rest]

@[simp] theorem State.notifyMove_finishList (old : List Port) (s : State) :
    (s.notifyMove old).finishList = s.finishList := by
  rw [(State.notifyMove_only old s).rest]

@[simp] theorem State.notifyMove_resultsTable (old : List Port) (s : State) :
    (s.notifyMove old).resultsTable = s.resultsTable := by
  rw [(State.notifyMove_only old s).rest]

@[simp] theorem State.notifyMove_car (old : List Port) (s : State) (q : Port) :
    (s.notifyMove old).car q = s.car q := by
  rw [State.car, State.notifyMove_cars, State.car]

/-! ### Two changes of one port -/

theorem State.modifyPort_modifyPort (s : State) (p : Port) (f g : PortState → PortState) :
    (s.modifyPort p f).modifyPort p g = s.modifyPort p (fun c => g (f c)) :=
  State.ext_ports rfl fun q => by
    by_cases h : q = p
    · subst h; simp
    · rw [State.modifyPort_port_ne _ _ h, State.modifyPort_port_ne _ _ h,
        State.modifyPort_port_ne _ _ h]

theorem State.modifyPort_id (s : State) (p : Port) (f : PortState → PortState)
    (h : f (s.port p) = s.port p) : s.modifyPort p f = s :=
  State.ext_ports rfl fun q => by
    by_cases e : q = p
    · subst e; simpa using h
    · rw [State.modifyPort_port_ne _ _ e]

/-! ### Grants and answers -/

/-- A granted request is of the kind granted, waits at the head of its port's queue, and finds room for
its response (R61, R176). -/
theorem State.granted_spec {s : State} {p : Port} {k : RequestKind} {r : Request}
    (h : s.granted p k = some r) :
    r.kind = k ∧ k.portLocal = false ∧ s.arbiterChoice = some p ∧
      (s.port p).requestQueue.head? = some (.request r) ∧
      (s.port p).responseQueue.length < responseCapacity := by
  unfold State.granted PortState.raceRequest PortState.head at h
  split at h
  · next chosen =>
    split at h
    · next x found =>
      split at h
      · next kind =>
        obtain rfl : x = r := by injection h
        split at found
        · next y head =>
          split at found
          · exact absurd found (by simp)
          · next race =>
            obtain rfl : y = x := by injection found
            split at head
            · next room => exact ⟨kind, by rw [← kind]; simpa using race, chosen, head, room⟩
            · exact absurd head (by simp)
        · exact absurd found (by simp)
        · exact absurd found (by simp)
      · exact absurd h (by simp)
    · exact absurd h (by simp)
  · exact absurd h (by simp)

theorem State.grant_none {s : State} {p : Port} {k : RequestKind}
    {perform : Request → State → State × Response} (h : s.granted p k = none) :
    s.grant p k perform = s := by
  unfold State.grant
  rw [h]

/-- What a grant does: the request leaves, is performed, is answered, and the pointer moves (R61). -/
theorem State.grant_some {s : State} {p : Port} {k : RequestKind} {r : Request}
    {perform : Request → State → State × Response} (h : s.granted p k = some r) :
    s.grant p k perform =
      { (perform r (s.modifyPort p PortState.dropRequest)).1.modifyPort p
          (·.respond (perform r (s.modifyPort p PortState.dropRequest)).2) with raaPointer := p } := by
  unfold State.grant
  rw [h]

/-- A grant between its two ends: what the request performed, and its response placed after it (R61). -/
theorem State.grant_ends {s v : State} {p : Port} {k : RequestKind} {r : Request}
    {perform : Request → State → State × Response} {response : Response} (h : s.granted p k = some r)
    (done : perform r (s.requestTaken p) = (v, response)) :
    s.grant p k perform = v.responsePlaced p response := by
  rw [State.requestTaken] at done
  rw [State.grant_some h, done]
  rfl

/-- A granted request that is answered and does nothing else. -/
theorem State.grant_answered {s : State} {p : Port} {k : RequestKind} {r : Request}
    {perform : Request → State → State × Response} {response : Response} (h : s.granted p k = some r)
    (done : perform r (s.modifyPort p PortState.dropRequest) =
      (s.modifyPort p PortState.dropRequest, response)) :
    s.grant p k perform = s.answered p response := by
  rw [State.grant_some h, done, State.answered, State.modifyPort_modifyPort]

/-- A change of a car and a change of a port commute. -/
theorem State.modifyCar_modifyPort (s : State) (p q : Port) (f : PortState → PortState) (g : Car → Car) :
    (s.modifyPort p f).modifyCar q g = (s.modifyCar q g).modifyPort p f := rfl

/-- What a grant does to the ports, from what its performance does to them: the performance offers notices
and changes push timers, and the grant removes the request and places the response (R61). -/
theorem State.grant_frame {s u : State} {p : Port} {k : RequestKind} {r : Request}
    {perform : Request → State → State × Response} {response : Response} (h : s.granted p k = some r)
    (done : perform r (s.modifyPort p PortState.dropRequest) = (u, response))
    (ports : ∀ q : Port,
      ((s.modifyPort p PortState.dropRequest).port q).SameButNoticesAndPush (u.port q))
    (push : (s.race.phase = .idle ↔ u.race.phase = .idle) →
      ∀ q : Port, (u.port q).pushTimer = (s.port q).pushTimer)
    (pushIdle : s.race.phase ≠ .idle → u.race.phase = .idle → ∀ q : Port, (u.port q).pushTimer = none)
    (ticks : u.tickCount = s.tickCount) (commands : u.pending = s.pending) :
    s.GrantFrame p response (s.grant p k perform) := by
  have same : s.grant p k perform =
      { u.modifyPort p (·.respond response) with raaPointer := p } := by
    rw [State.grant_some h, done]
  have port : ∀ q : Port, (s.grant p k perform).port q =
      if q = p then (u.port q).respond response else u.port q := fun q => by
    rw [same]
    refine (State.modifyPort_port u p q (·.respond response)).trans ?_
    split
    · next e => rw [e]
    · rfl
  have own := ports p
  rw [State.modifyPort_port_self] at own
  refine ⟨?_, fun q hq => ?_, fun i q => ?_, fun a b q => ?_, ?_, ?_, ?_⟩
  · rw [port p, if_pos rfl, own]
    exact ⟨rfl, rfl, rfl⟩
  · rw [port q, if_neg hq, ← State.modifyPort_port_ne s PortState.dropRequest hq]
    exact ports q
  · rw [port q, ← push (by rw [i, same]; exact Iff.rfl) q]
    split <;> rfl
  · rw [port q, ← pushIdle a (by rw [← b, same]; rfl) q]
    split <;> rfl
  · rw [same]
  · rw [same]; exact ticks
  · rw [same]; exact commands

/-- A port-local request at the head is of its kind and finds room for its response (R176). -/
theorem State.localRequest_spec {s : State} {p : Port} {k : RequestKind} {r : Request}
    (h : s.localRequest p k = some r) :
    r.kind = k ∧ (s.port p).requestQueue.head? = some (.request r) ∧
      (s.port p).responseQueue.length < responseCapacity := by
  unfold State.localRequest PortState.head at h
  split at h
  · next x head =>
    split at h
    · next kind =>
      obtain rfl : x = r := by injection h
      split at head
      · next room => exact ⟨kind, head, room⟩
      · exact absurd head (by simp)
    · exact absurd h (by simp)
  · exact absurd h (by simp)
  · exact absurd h (by simp)

theorem State.answer_none {s : State} {p : Port} {k : RequestKind}
    {perform : Request → State → State × Response} (h : s.localRequest p k = none) :
    s.answer p k perform = s := by
  unfold State.answer
  rw [h]

/-- What an answer at the head does: the request leaves, is performed and is answered (R176). -/
theorem State.answer_some {s : State} {p : Port} {k : RequestKind} {r : Request}
    {perform : Request → State → State × Response} (h : s.localRequest p k = some r) :
    s.answer p k perform =
      (perform r (s.modifyPort p PortState.dropRequest)).1.modifyPort p
        (·.respond (perform r (s.modifyPort p PortState.dropRequest)).2) := by
  unfold State.answer
  rw [h]

/-- A port-local request that is answered and does nothing else. -/
theorem State.answer_answered {s : State} {p : Port} {k : RequestKind} {r : Request}
    {perform : Request → State → State × Response} {response : Response}
    (h : s.localRequest p k = some r)
    (done : perform r (s.modifyPort p PortState.dropRequest) =
      (s.modifyPort p PortState.dropRequest, response)) :
    s.answer p k perform = s.answeredLocally p response := by
  rw [State.answer_some h, done, State.answeredLocally, State.modifyPort_modifyPort]

/-- A request without a reserved byte that is not zero is not reported (R185). -/
theorem State.reportReserved_zero {s : State} {p : Port} {r : Request}
    (h : r.kind.reservedNonzero r.payload = false) : s.reportReserved p r = s := by
  unfold State.reportReserved
  rw [h]
  rfl

/-! ### Reads that a change of one port leaves -/

@[simp] theorem State.modifyPort_isRacePort (s : State) (p q : Port) (f : PortState → PortState) :
    (s.modifyPort p f).isRacePort q = s.isRacePort q := rfl

@[simp] theorem State.modifyPort_carState (s : State) (p q : Port) (f : PortState → PortState) :
    (s.modifyPort p f).carState q = s.carState q := rfl

@[simp] theorem State.modifyPort_shownTime (s : State) (p : Port) (f : PortState → PortState) :
    (s.modifyPort p f).shownTime = s.shownTime := rfl

@[simp] theorem State.modifyPort_runningOrder (s : State) (p : Port) (f : PortState → PortState) :
    (s.modifyPort p f).runningOrder = s.runningOrder := rfl

@[simp] theorem State.modifyPort_capture (s : State) (p : Port) (f : PortState → PortState) :
    (s.modifyPort p f).capture = s.capture := rfl

@[simp] theorem State.modifyPort_voteCount (s : State) (p : Port) (f : PortState → PortState) :
    (s.modifyPort p f).voteCount = s.voteCount := rfl

@[simp] theorem State.modifyPort_eligibleCount (s : State) (p : Port) (f : PortState → PortState) :
    (s.modifyPort p f).eligibleCount = s.eligibleCount := rfl

/-! ### The race's shared operations -/

/-- The return to IDLE leaves what R40 says and tells the present ports. -/
theorem State.returnToIdle_spec (reason : Reason) (s : State) :
    s.ReturnedToIdle reason (s.returnToIdle reason) where
  race := rfl
  cars := fun q => by simp [State.returnToIdle, State.clearRace, State.car]
  course := rfl
  lists := ⟨rfl, rfl, rfl, rfl, rfl⟩
  clock := ⟨rfl, rfl⟩
  ports := fun q => by
    have port : s.clearRace.port q = { s.port q with pushTimer := none } := by
      simp [State.clearRace, State.port]
    have present : s.clearRace.isPresentPort q = s.isPresentPort q := by
      rw [State.isPresentPort, port, State.isPresentPort]
    rw [State.returnToIdle, State.notifyPhase_port, port, present]
    rfl
  others := ⟨rfl, rfl⟩

/-- The release test with some race port still to be waited for changes nothing (R37). -/
theorem State.releaseTest_waits {s : State} {q : Port} (race : s.isRacePort q = true)
    (waits : s.race.releaseSet.get q = false) : s.releaseTest = s := by
  unfold State.releaseTest
  rw [if_neg]
  intro all
  have h := List.all_eq_true.mp all q (mem_allPorts q)
  rw [race, waits] at h
  exact absurd h (by decide)

/-- The release test with every race port released returns the race to IDLE (R37, R38). -/
theorem State.releaseTest_done {s : State}
    (all : ∀ q : Port, s.isRacePort q = true → s.race.releaseSet.get q = true) :
    s.releaseTest = s.returnToIdle .released := by
  unfold State.releaseTest
  rw [if_pos]
  refine List.all_eq_true.mpr fun q _ => ?_
  cases race : s.isRacePort q with
  | false => rfl
  | true => rw [all q race]; rfl

@[simp] theorem State.stopRace_isRacePort (s : State) (r : Reason) (q : Port) :
    (s.stopRace r).isRacePort q = s.isRacePort q := by
  simp [State.isRacePort, State.car, State.stopRace]

/-- The entry into RESULTS, while some race port is not LOST (R36). -/
theorem State.enterResults_spec {s : State} (reason : Reason) {p : Port}
    (race : s.isRacePort p = true) (kept : (s.port p).presence ≠ .lost) :
    s.EnteredResults reason (s.enterResults reason) := by
  have mark : ∀ q : Port,
      (((s.stopRace reason).openResults reason).notifyPhase
        (.changed .results reason)).race.releaseSet.get q =
      (s.isRacePort q && decide ((s.port q).presence = .lost)) := by
    intro q
    simp only [State.notifyPhase_race, State.openResults, Bank.get_mapPorts,
      State.stopRace_isRacePort]
    rfl
  have stays : s.enterResults reason =
      ((s.stopRace reason).openResults reason).notifyPhase (.changed .results reason) := by
    refine State.releaseTest_waits (q := p) ?_ ?_
    · rw [← race, ← State.stopRace_isRacePort s reason p]
      rfl
    · rw [mark]; simp [kept]
  rw [stays]
  exact {
    race := rfl
    released := fun q => by rw [mark]; simp
    cars := fun q => by
      simp [State.car, State.stopRace]
      rfl
    order := ⟨rfl, rfl, rfl, rfl⟩
    table := rfl
    course := rfl
    clock := ⟨rfl, rfl⟩
    ports := fun q => by
      rw [State.notifyPhase_port]
      rfl
    others := ⟨rfl, rfl⟩ }

/-- The hold test outside COUNTDOWN does nothing (R114). -/
theorem State.holdTest_other {s : State} (h : s.race.phase ≠ .countdown) : s.holdTest = s := by
  unfold State.holdTest
  rw [if_neg h]

/-! ### Major errors (R141, R142) -/

theorem State.majorError_first {s : State} {p : Port} (kind : ErrorKind) (k : Option Byte)
    (h : (s.port p).errorRecord = none) :
    s.majorError p kind k =
      s.modifyPort p fun c =>
        ({ c with errorRecord := some ⟨kind, k, s.raceClock, false⟩ } : PortState).offer
          (.error kind) := by
  unfold State.majorError
  rw [h]
  refine State.ext_ports rfl fun q => ?_
  rw [State.notifyOwn_port]
  by_cases e : q = p
  · subst e; simp
  · rw [if_neg e, State.modifyPort_port_ne _ _ e, State.modifyPort_port_ne _ _ e]

theorem State.majorError_second {s : State} {p : Port} (kind : ErrorKind) (k : Option Byte)
    {record : ErrorRecord} (h : (s.port p).errorRecord = some record)
    (m : record.multiple = false) :
    s.majorError p kind k =
      s.modifyPort p fun c => { c with errorRecord := some { record with multiple := true } } := by
  unfold State.majorError
  rw [h]
  simp [m]

theorem State.majorError_fenced {s : State} {p : Port} (kind : ErrorKind) (k : Option Byte)
    {record : ErrorRecord} (h : (s.port p).errorRecord = some record) (m : record.multiple = true)
    (f : (s.port p).fenced = true) : s.majorError p kind k = s := by
  unfold State.majorError
  rw [h]
  simp [m, f]

theorem State.majorError_third {s : State} {p : Port} (kind : ErrorKind) (k : Option Byte)
    {record : ErrorRecord} (h : (s.port p).errorRecord = some record) (m : record.multiple = true)
    (f : (s.port p).fenced = false) : s.majorError p kind k = s.fence p := by
  unfold State.majorError
  rw [h]
  simp [m, f]

/-! ### The tick -/

/-- With nothing due the tick takes no expiry (R17). -/
theorem State.takeDue_nothing {s : State} (h : s.NothingDue) : s.takeDue = s := by
  have fold : ∀ (f : Port → State → State), (∀ p, f p s = s) → ∀ l : List Port,
      l.foldl (fun s p => f p s) s = s := by
    intro f same l
    induction l with
    | nil => rfl
    | cons p rest ih => rw [List.foldl_cons, same p, ih]
  have e : s.entryWindowExpiry = s := by
    unfold State.entryWindowExpiry
    simp [h.entryWindow]
  have g : s.gridWaitExpiry = s := by
    unfold State.gridWaitExpiry
    rw [if_neg h.gridWait]
  have c : s.countdownExpiry = s := by
    unfold State.countdownExpiry
    rw [if_neg fun x => h.countdown ⟨x.1, x.2.1⟩]
  have w : s.closingWindowExpiry = s := by
    unfold State.closingWindowExpiry
    rw [if_neg h.closingWindow]
  have r : s.resultsHoldExpiry = s := by
    unfold State.resultsHoldExpiry
    rw [if_neg h.resultsHold]
  unfold State.takeDue
  simp only [e, g, c, w, r]
  rw [fold State.voteExpiry fun p => by simp [State.voteExpiry, h.votes p],
    fold State.silenceFirstStageExpiry fun p => by
      simp [State.silenceFirstStageExpiry, h.firstStage p],
    fold State.silenceSecondStageExpiry fun p => by
      simp [State.silenceSecondStageExpiry, h.secondStage p],
    fold State.pushTimerExpiry fun p => by simp [State.pushTimerExpiry, h.push p]]

end Sys2Proof.Machine
end

