-- ==== Sys2Proof/Laws/Race.lean ====
section
/-! SUPPORT. One lemma for each case of the race's shared operations and of the changes of presence:
withdrawal, retirement, the end tests, the countdown and its holds, the green, and the effects of a port
going LATE, returning or becoming LOST. -/
namespace Sys2Proof.Machine

/-! ### Counting cars -/

/-- A car that satisfies a test is counted. -/
theorem State.countCars_pos {s : State} {p : Port} {c : Car} {test : Standing → Bool}
    (h : s.car p = some c) (t : test c.standing = true) : 0 < s.countCars test := by
  unfold State.countCars Bank.count
  refine List.countP_pos_iff.mpr ⟨p, mem_allPorts p, ?_⟩
  rw [show s.cars.get p = some c from h]
  exact t

/-- While a car is running the race is not all done (R34). -/
theorem State.allDone_running {s : State} {p : Port} {c : Car} (h : s.car p = some c)
    (t : c.standing.running = true) : s.allDone = false :=
  decide_eq_false (State.countCars_pos h t).ne'

/-! ### Moves -/

/-- D of every car stays when a change of one car keeps its D. -/
theorem State.modifyCar_distance (s : State) (p q : Port) {f : Car → Car}
    (keeps : ∀ c, (f c).distance = c.distance) : (s.modifyCar p f).distance q = s.distance q := by
  unfold State.distance
  rw [State.modifyCar_car]
  by_cases e : q = p
  · subst e
    rw [if_pos rfl]
    cases s.car q with
    | none => rfl
    | some c => exact keeps c
  · rw [if_neg e]

/-- A change of the cars that are there leaves the race ports. -/
@[simp] theorem State.modifyCar_isRacePort (s : State) (p q : Port) (f : Car → Car) :
    (s.modifyCar p f).isRacePort q = s.isRacePort q := by
  unfold State.isRacePort
  rw [State.modifyCar_car]
  split
  · next e => rw [e]; exact Option.isSome_map
  · rfl

/-- A place by D depends on the cars' D alone (R94, R98). -/
theorem State.placeByDistance_congr {s t : State} (h : ∀ q, t.distance q = s.distance q) (p : Port)
    (group : List Port) : t.placeByDistance p group = s.placeByDistance p group := by
  unfold State.placeByDistance
  simp only [h]

/-! ### Withdrawal (R52) -/

theorem State.withdraw_none {s : State} {p : Port} (reason : Reason) (h : s.car p = none) :
    s.withdraw p reason = s := by
  unfold State.withdraw
  rw [h]

/-- A withdrawal removes the car from the entry list, makes it EMPTY, and besides only raises notices. -/
theorem State.withdraw_only {s : State} {p : Port} {c : Car} (reason : Reason)
    (h : s.car p = some c) :
    (s.removeEntry p c.entryPosition).OnlyNotices (s.withdraw p reason) := by
  have said := s.notifyRace_only (.entry p .withdrawn reason c.entryPosition)
  have moved : (s.removeEntry p c.entryPosition).OnlyNotices
      ((s.notifyRace (.entry p .withdrawn reason c.entryPosition)).removeEntry p c.entryPosition) :=
    ⟨rfl, said.ports⟩
  unfold State.withdraw
  rw [h]
  exact moved.trans (State.notifyMove_only _ _)

/-! ### Retirement (R54) -/

/-- The state of a retirement before its notices and its end tests. -/
def State.retiredState (p : Port) (reason : Reason) (s : State) : State :=
  { s.modifyCar p (fun c => { c with standing := .retired reason s.raceClock }) with
    race := { s.race with votes := s.race.votes.set p none }
    activeGroup := s.activeGroup.filter (fun q => q ≠ p)
    retiredGroup := s.placeByDistance p s.retiredGroup }

/-- A retirement changes the car's standing, moves it into the RETIRED group, removes its vote, and
besides only raises notices before the end tests (R54, R98). -/
theorem State.retire_spec (p : Port) (reason : Reason) (s : State) :
    ∃ t : State, (s.retiredState p reason).OnlyNotices t ∧ s.retire p reason = t.endTests false := by
  refine ⟨_, ?_, rfl⟩
  let f : Car → Car := fun c => { c with standing := .retired reason s.raceClock }
  let said := (s.modifyCar p f).notifyRace (.carState p .retired reason)
  have order : said.placeByDistance p s.retiredGroup = s.placeByDistance p s.retiredGroup :=
    State.placeByDistance_congr
      (fun q => (rfl : said.distance q = (s.modifyCar p f).distance q).trans
        (State.modifyCar_distance s p q (f := f) fun _ => rfl)) p _
  have moved : (said.retirementMove p).OnlyNotices
      ((said.retirementMove p).notifyMove s.runningOrder) := State.notifyMove_only _ _
  have start : (s.retiredState p reason).OnlyNotices ((said.retirementMove p).dropVote p) := by
    refine ⟨?_, ((s.modifyCar p f).notifyRace_only (.carState p .retired reason)).ports⟩
    unfold State.retiredState State.retirementMove
    rw [← order]
    rfl
  have dropped : ((said.retirementMove p).dropVote p).OnlyNotices
      (((said.retirementMove p).notifyMove s.runningOrder).dropVote p) := by
    refine ⟨?_, moved.ports⟩
    have rest := moved.rest
    unfold State.dropVote State.modifyRace
    generalize (said.retirementMove p).notifyMove s.runningOrder = u at rest
    rw [rest]
  exact (start.trans dropped).trans (State.notifyVotes_only _)

/-! ### End tests (R32) -/

/-- After a retirement the race goes on while a car runs and the votes fall short (R32). -/
theorem State.endTests_goes_on {s : State} {p : Port} {c : Car} (h : s.car p = some c)
    (t : c.standing.running = true) (votes : s.thresholdMet = false) : s.endTests false = s := by
  unfold State.endTests
  rw [State.allDone_running h t, votes]
  rfl

/-- After the first finish in GREEN, with a closing window above 0, the race is FINISHING (R32). -/
theorem State.endTests_first_finish {s : State} {p : Port} {c : Car} (h : s.car p = some c)
    (t : c.standing.running = true) (votes : s.thresholdMet = false) (green : s.race.phase = .green)
    (window : 0 < s.race.settings.closingWindow) : s.endTests true = s.enterFinishing := by
  unfold State.endTests
  rw [State.allDone_running h t, votes]
  simp [green, window.ne']

/-- With no car running the race enters RESULTS, whatever the votes (R32, R34). -/
theorem State.endTests_all_done {s : State} {afterFinish : Bool} (h : s.allDone = true) :
    s.endTests afterFinish =
      s.enterResults (if 0 < s.countCars Standing.isFinished then .allFinished else .allRetired) := by
  unfold State.endTests
  rw [if_pos h]

/-- With a car running and the threshold met the race is aborted (R32, R127). -/
theorem State.endTests_threshold {s : State} {afterFinish : Bool} (h : s.allDone = false)
    (votes : s.thresholdMet = true) : s.endTests afterFinish = s.enterResults .aborted := by
  unfold State.endTests
  rw [h, votes]
  rfl

/-! ### The countdown and its holds (R27, R114 to R118) -/

/-- The entry into COUNTDOWN changes the race record and raises notices. -/
theorem State.enterCountdown_only (s : State) :
    (s.modifyRace fun r => { r with
      phase := .countdown, gridWait := none
      holdSlot := if s.anyReadyLate then some r.settings.countdownLength else none
      countdown := if s.anyReadyLate then none else some r.settings.countdownLength }).OnlyNotices
      s.enterCountdown := by
  unfold State.enterCountdown
  cases h : s.anyReadyLate with
  | true => exact (State.notifyPhase_only _ _).trans (State.notifyPhase_only _ _)
  | false => exact State.notifyPhase_only _ _

theorem State.holdTest_begins {s : State} (phase : s.race.phase = .countdown)
    (slot : s.race.holdSlot = none) (late : s.anyReadyLate = true) : s.holdTest = s.beginHold := by
  unfold State.holdTest
  rw [if_pos phase, slot, late]

theorem State.holdTest_resumes {s : State} {saved : Nat} (phase : s.race.phase = .countdown)
    (slot : s.race.holdSlot = some saved) (late : s.anyReadyLate = false) :
    s.holdTest = s.resume saved := by
  unfold State.holdTest
  rw [if_pos phase, slot, late]

/-- The hold test changes nothing while the slot and the LATE ports agree (R114). -/
theorem State.holdTest_agrees {s : State} (h : s.race.holdSlot.isSome = s.anyReadyLate) :
    s.holdTest = s := by
  unfold State.holdTest
  split
  · cases slot : s.race.holdSlot <;> rw [slot] at h <;> rw [← h] <;> rfl
  · rfl

/-- The hold test changes the race record's hold slot and countdown, and besides only raises notices. -/
theorem State.holdTest_only (s : State) :
    ∃ slot timer, (s.modifyRace fun r => { r with holdSlot := slot, countdown := timer }).OnlyNotices
      s.holdTest := by
  have stays : (s.modifyRace fun r => { r with
      holdSlot := s.race.holdSlot, countdown := s.race.countdown }).OnlyNotices s := State.OnlyNotices.refl s
  unfold State.holdTest
  split
  · split
    · exact ⟨_, _, State.notifyPhase_only _ _⟩
    · exact ⟨_, _, State.notifyPhase_only _ _⟩
    · exact ⟨_, _, stays⟩
    · exact ⟨_, _, stays⟩
  · exact ⟨_, _, stays⟩

/-! ### Changes of presence (R131 to R139) -/

/-- A RACING car coasts when its port goes LATE in GREEN or FINISHING (R137). -/
theorem State.lateEffects_racing {s : State} {p : Port} (reason : Reason)
    (phase : s.race.phase.running = true) (car : s.carState p = .racing) :
    s.lateEffects p reason = (s.modifyCar p fun c => { c with standing := .coasting }).notifyRace
      (.carState p .coasting reason) := by
  unfold State.lateEffects
  rw [if_pos phase, if_pos car]

/-- A coasting car races again when its port returns from LATE (R138). -/
theorem State.returnEffects_coasting {s : State} {p : Port} (phase : s.race.phase.running = true)
    (car : s.carState p = .coasting) :
    s.returnEffects p = (s.modifyCar p fun c => { c with standing := .racing }).notifyRace
      (.carState p .racing .none) := by
  unfold State.returnEffects
  rw [if_pos phase, if_pos car]

/-- In a phase without a countdown or a running car, a port going LATE touches no car (R137). -/
theorem State.lateEffects_nothing {s : State} {p : Port} (reason : Reason)
    (phase : s.race.phase ≠ .countdown) (car : s.carState p ≠ .racing) : s.lateEffects p reason = s := by
  unfold State.lateEffects
  rw [if_neg car, if_neg fun h : s.race.phase = .countdown ∧ s.carState p = .ready => phase h.1]
  split <;> rfl

/-- In a phase without a countdown or a coasting car, a return from LATE touches no car (R138). -/
theorem State.returnEffects_nothing {s : State} {p : Port} (phase : s.race.phase ≠ .countdown)
    (car : s.carState p ≠ .coasting) : s.returnEffects p = s := by
  unfold State.returnEffects
  rw [if_neg car, if_neg fun h : s.race.phase = .countdown ∧ s.carState p = .ready => phase h.1]
  split <;> rfl

/-- The effects of a port going LATE reach the ports through notices alone. -/
theorem State.lateEffects_ports (s : State) (p q : Port) (reason : Reason) :
    (s.port q).SameButNotices ((s.lateEffects p reason).port q) := by
  unfold State.lateEffects
  split
  · split
    · exact (State.notifyRace_only _ (s.modifyCar p fun c => { c with standing := .coasting })).ports q
    · rfl
  · split
    · obtain ⟨_, _, h⟩ := s.holdTest_only
      exact h.ports q
    · rfl

/-- The effects of a return reach the ports through notices alone. -/
theorem State.returnEffects_ports (s : State) (p q : Port) :
    (s.port q).SameButNotices ((s.returnEffects p).port q) := by
  unfold State.returnEffects
  split
  · split
    · exact (State.notifyRace_only _ (s.modifyCar p fun c => { c with standing := .racing })).ports q
    · rfl
  · split
    · obtain ⟨_, _, h⟩ := s.holdTest_only
      exact h.ports q
    · rfl

/-- A link that goes DOWN flushes its own port, and a PRESENT port goes LATE (R179, R133). -/
theorem State.linkDown_own (s : State) (p : Port) :
    ((s.port p).presence = .present →
      PortState.SameButNotices { (s.port p).dropLink with
        presence := .late, silence := .second secondStageLength } ((s.linkDown p).port p)) ∧
    ((s.port p).presence ≠ .present → (s.linkDown p).port p = (s.port p).dropLink) := by
  unfold State.linkDown
  constructor
  · intro h
    rw [if_pos h]
    have own := ((s.modifyPort p PortState.dropLink).modifyPort p fun c =>
      { c with presence := .late, silence := .second secondStageLength }).lateEffects_ports p p .silent
    rw [State.modifyPort_port_self, State.modifyPort_port_self] at own
    exact own
  · intro h
    rw [if_neg h, State.modifyPort_port_self]

end Sys2Proof.Machine
end

