-- ==== Sys2Proof/Laws/Notices.lean ====
section
/-! SUPPORT. What each port is offered: notices one after another, the notices of a move, and states that
differ from one another by notices alone. -/
namespace Sys2Proof.Machine

/-! ### Notices offered one after another -/

@[simp] theorem PortState.offerAll_nil (c : PortState) : c.offerAll [] = c := rfl

theorem PortState.offerAll_append (l m : List Notice) (c : PortState) :
    c.offerAll (l ++ m) = (c.offerAll l).offerAll m := List.foldl_append

theorem PortState.offerAll_noticeIf (raised : Bool) (n : Notice) (c : PortState) :
    c.offerAll (noticeIf raised n) = if raised then c.offer n else c := by
  cases raised <;> rfl

theorem PortState.offerAll_same (l : List Notice) (c : PortState) : c.SameButNotices (c.offerAll l) := by
  induction l generalizing c with
  | nil => rfl
  | cons n rest ih => exact (PortState.offer_same n c).trans (ih _)

@[simp] theorem PortState.offerAll_presence (l : List Notice) (c : PortState) :
    (c.offerAll l).presence = c.presence := by
  rw [PortState.offerAll_same l c]

@[simp] theorem PortState.offerAll_fenced (l : List Notice) (c : PortState) :
    (c.offerAll l).fenced = c.fenced := by
  rw [PortState.offerAll_same l c]

/-- A notice offered to one of two ports with the same link and notices is offered to the other alike. -/
theorem PortState.offer_sameNotices {c d : PortState} (n : Notice) (link : d.link = c.link)
    (h : c.SameNotices d) : (c.offer n).SameNotices (d.offer n) := by
  obtain ⟨queue, overflow⟩ := h
  unfold PortState.offer
  rw [link, queue]
  cases c.link with
  | down => exact ⟨queue, overflow⟩
  | up => dsimp only; split <;> exact ⟨by simp, by simp [overflow]⟩

/-- Notices offered to one of two ports with the same link and notices are offered to the other alike. -/
theorem PortState.offerAll_sameNotices (l : List Notice) {c d : PortState} (link : d.link = c.link)
    (h : c.SameNotices d) : (c.offerAll l).SameNotices (d.offerAll l) := by
  induction l generalizing c d with
  | nil => exact h
  | cons n rest ih =>
    exact ih (by rw [PortState.offer_link, PortState.offer_link, link])
      (PortState.offer_sameNotices n link h)

/-! ### States that differ by notices -/

/-- The state is the same but that each port has been offered its notices. -/
structure State.Told (notices : Port → List Notice) (s t : State) : Prop where
  rest : t = { s with ports := t.ports }
  ports : ∀ q : Port, t.port q = (s.port q).offerAll (notices q)

theorem State.Told.refl (s : State) : s.Told (fun _ => []) s := ⟨rfl, fun _ => rfl⟩

theorem State.Told.trans {l m : Port → List Notice} {s t u : State} (h : s.Told l t) (k : t.Told m u) :
    s.Told (fun q => l q ++ m q) u :=
  ⟨by rw [k.rest, h.rest], fun q => by rw [k.ports, h.ports, PortState.offerAll_append]⟩

/-- Told the same, notice by notice. -/
theorem State.Told.congr {l m : Port → List Notice} {s t : State} (h : s.Told l t)
    (same : ∀ q, l q = m q) : s.Told m t :=
  ⟨h.rest, fun q => by rw [h.ports, same]⟩

theorem State.Told.car {l : Port → List Notice} {s t : State} (h : s.Told l t) (q : Port) :
    t.car q = s.car q := by rw [h.rest]; rfl

theorem State.Told.isRacePort {l : Port → List Notice} {s t : State} (h : s.Told l t) (q : Port) :
    t.isRacePort q = s.isRacePort q := by rw [h.rest]; rfl

theorem State.Told.race {l : Port → List Notice} {s t : State} (h : s.Told l t) :
    t.race = s.race := by rw [h.rest]

theorem State.Told.isPresentPort {l : Port → List Notice} {s t : State} (h : s.Told l t) (q : Port) :
    t.isPresentPort q = s.isPresentPort q := by
  unfold State.isPresentPort
  rw [h.ports, PortState.offerAll_presence]

theorem State.notify_told (sel : Port → Bool) (n : Notice) (s : State) :
    s.Told (fun q => noticeIf (sel q) n) (s.notify sel n) :=
  ⟨rfl, fun q => by rw [State.notify_port, PortState.offerAll_noticeIf]⟩

theorem State.notifyRace_told (n : Notice) (s : State) :
    s.Told (fun q => noticeIf (s.isRacePort q) n) (s.notifyRace n) := State.notify_told _ n s

theorem State.notifyPhase_told (r : PhaseReport) (s : State) :
    s.Told (fun q => noticeIf (s.isPresentPort q) (.phase r s.race.number)) (s.notifyPhase r) :=
  State.notify_told _ _ s

theorem State.notifyOwn_told (p : Port) (n : Notice) (s : State) :
    s.Told (fun q => noticeIf (decide (q = p)) n) (s.notifyOwn p n) := State.notify_told _ n s

/-! ### The notices of a move (R100, R101) -/

/-- The POSITION notice of one port for a move. -/
def positionNotice (q : Port) (before after : List Port) : List Notice :=
  match before.idxOf? q, after.idxOf? q with
  | some i, some j => noticeIf (decide (i ≠ j)) (.position (j + 1))
  | _, _ => []

/-- The POSITION notices raised along a part of the new order that starts at a place. -/
theorem State.notifyPositions_from (old : List Port) (s : State) : ∀ (l : List Port) (start : Nat),
    l.Nodup → s.Told (fun q => match old.idxOf? q, l.idxOf? q with
        | some i, some j => noticeIf (decide (i ≠ j + start)) (.position (j + start + 1))
        | _, _ => [])
      ((l.zipIdx start).foldl (fun s e =>
        match old.idxOf? e.1 with
        | none => s
        | some i => if i = e.2 then s else s.notifyOwn e.1 (.position (e.2 + 1))) s) := by
  intro l
  induction l generalizing s with
  | nil =>
    intro start _
    refine (State.Told.refl s).congr fun q => ?_
    cases old.idxOf? q <;> rfl
  | cons p rest ih =>
    intro start nodup
    obtain ⟨fresh, nodup⟩ := List.nodup_cons.mp nodup
    rw [List.zipIdx_cons, List.foldl_cons]
    have first : s.Told (fun q => match old.idxOf? q with
        | some i => noticeIf (decide (q = p) && decide (i ≠ start)) (.position (start + 1))
        | none => [])
        (match old.idxOf? p with
          | none => s
          | some i => if i = start then s else s.notifyOwn p (.position (start + 1))) := by
      cases place : old.idxOf? p with
      | none =>
        refine (State.Told.refl s).congr fun q => ?_
        by_cases e : q = p
        · rw [e, place]
        · cases old.idxOf? q <;> simp [e, noticeIf]
      | some i =>
        dsimp only
        split
        · next same =>
          refine (State.Told.refl s).congr fun q => ?_
          by_cases e : q = p
          · simp [e, place, same, noticeIf]
          · cases old.idxOf? q <;> simp [e, noticeIf]
        · next moved =>
          refine (State.notifyOwn_told p _ s).congr fun q => ?_
          by_cases e : q = p
          · simp [e, place, moved, noticeIf]
          · cases old.idxOf? q <;> simp [e, noticeIf]
    refine (first.trans (ih _ (start + 1) nodup)).congr fun q => ?_
    cases old.idxOf? q with
    | none => rfl
    | some i =>
      by_cases e : p = q
      · subst e
        have gone : rest.idxOf? p = none := List.idxOf?_eq_none_iff.mpr fresh
        have here : (p :: rest).idxOf? p = some 0 := by simp [List.idxOf?_cons]
        simp [gone, here]
      · have e' : ¬q = p := fun h => e h.symm
        have there : (p :: rest).idxOf? q = (rest.idxOf? q).map (· + 1) := by
          simp [List.idxOf?_cons, e]
        rw [there]
        cases rest.idxOf? q with
        | none => simp [e', noticeIf]
        | some j =>
          simp only [Option.map_some, e', decide_false, Bool.false_and]
          simp only [noticeIf, show j + (start + 1) = j + 1 + start by omega]
          rfl

theorem State.notifyPositions_told (old : List Port) {new : List Port} (s : State)
    (nodup : new.Nodup) : s.Told (fun q => positionNotice q old new) (s.notifyPositions old new) :=
  State.notifyPositions_from old s new 0 nodup

theorem State.notifyLeader_told (old new : List Port) (s : State) :
    s.Told (fun q => match new.head? with
      | some leader => noticeIf (s.isRacePort q && decide (old.head? ≠ some leader)) (.leader leader)
      | none => []) (s.notifyLeader old new) := by
  unfold State.notifyLeader
  cases new.head? with
  | none => exact State.Told.refl s
  | some p =>
    dsimp only
    split
    · next same => exact (State.Told.refl s).congr fun q => by simp [same, noticeIf]
    · next other => exact (State.notifyRace_told _ s).congr fun q => by simp [other]

/-- The notices of a move, port by port (R100, R101). -/
theorem State.notifyMove_told (old : List Port) (s : State) (nodup : s.runningOrder.Nodup) :
    s.Told (fun q => moveNotices (s.isRacePort q) q old s.runningOrder) (s.notifyMove old) := by
  have places := State.notifyPositions_told old s nodup
  refine (places.trans (State.notifyLeader_told old s.runningOrder _)).congr fun q => ?_
  rw [places.isRacePort]
  rfl

end Sys2Proof.Machine
end

