-- ==== Sys2Proof/Laws/Events.lean ====
section
/-! SUPPORT. Each shared event of the race does what its rule states, in the terms of Safety: the hold
test, the entry into COUNTDOWN and into RESULTS, withdrawals and retirements with the tests that follow,
the effects of presence, and major errors. -/
namespace Sys2Proof.Machine

/-! ### Conditions, as tests and as statements -/

theorem State.anyReadyLate_iff (s : State) : s.anyReadyLate = true ↔ s.SomeReadyLate := by
  simp [State.anyReadyLate, State.readyAndLate, State.SomeReadyLate, mem_allPorts]

theorem State.countCars_zero_iff (s : State) (test : Standing → Bool) :
    s.countCars test = 0 ↔ ∀ q c, s.car q = some c → test c.standing = false := by
  constructor
  · intro zero q c h
    cases t : test c.standing with
    | false => rfl
    | true => exact absurd zero (State.countCars_pos h t).ne'
  · intro none
    unfold State.countCars Bank.count
    refine List.countP_eq_zero.mpr fun q _ => ?_
    cases h : s.cars.get q with
    | none => simp
    | some c => simp [none q c h]

theorem State.allDone_iff (s : State) : s.allDone = true ↔ ¬s.SomeRunning := by
  unfold State.allDone State.SomeRunning
  rw [decide_eq_true_iff, State.countCars_zero_iff]
  simp

theorem State.someFinished_iff (s : State) :
    0 < s.countCars Standing.isFinished ↔ ∃ q : Port, s.carState q = .finished := by
  rw [Nat.pos_iff_ne_zero, ne_eq, State.countCars_zero_iff]
  constructor
  · intro h
    obtain ⟨q, h⟩ := not_forall.mp h
    obtain ⟨c, h⟩ := not_forall.mp h
    obtain ⟨car, t⟩ := Classical.not_imp.mp h
    refine ⟨q, ?_⟩
    unfold State.carState
    rw [car]
    cases x : c.standing <;> simp [x, Standing.isFinished] at t ⊢
    rfl
  · rintro ⟨q, h⟩ none
    unfold State.carState at h
    cases car : s.car q with
    | none => simp [car] at h
    | some c =>
      have := none q c car
      rw [car] at h
      cases x : c.standing <;> simp [x, Standing.state, Standing.isFinished] at h this

theorem State.carCount_zero_iff (s : State) : s.carCount = 0 ↔ ∀ q : Port, s.car q = none := by
  unfold State.carCount
  rw [State.countCars_zero_iff]
  constructor
  · intro h q
    cases car : s.car q with
    | none => rfl
    | some c => exact absurd (h q c car) (by simp)
  · intro h q c car
    rw [h q] at car
    exact absurd car (by simp)

/-- Two counts, of which one implies the other, are equal when both count the same. -/
theorem countP_eq_iff {p q : Port → Bool} (implies : ∀ x, p x = true → q x = true) (l : List Port) :
    l.countP p = l.countP q ↔ ∀ x ∈ l, q x = true → p x = true := by
  induction l with
  | nil => simp
  | cons x rest ih =>
    have le : rest.countP p ≤ rest.countP q := List.countP_mono_left fun y _ => implies y
    simp only [List.countP_cons, List.forall_mem_cons, ← ih]
    cases hp : p x <;> cases hq : q x
    · simp
    · simp
      omega
    · exact absurd (implies x hp) (by simp [hq])
    · simp

/-- Every car that is not EMPTY is READY, and there is one (R27). -/
theorem State.allReady_iff (s : State) : s.allReady = true ↔
    (∃ q : Port, s.car q ≠ none) ∧ ∀ q : Port, s.car q ≠ none → s.carState q = .ready := by
  have any : 0 < s.carCount ↔ ∃ q : Port, s.car q ≠ none := by
    rw [Nat.pos_iff_ne_zero, ne_eq, State.carCount_zero_iff, not_forall]
  have all : s.countCars (fun x => x = .ready) = s.carCount ↔
      ∀ q : Port, s.car q ≠ none → s.carState q = .ready := by
    unfold State.carCount State.countCars Bank.count
    rw [countP_eq_iff fun x => by cases s.cars.get x <;> simp]
    refine forall_congr' fun q => ?_
    unfold State.carState State.car
    cases s.cars.get q with
    | none => simp [mem_allPorts]
    | some c => cases x : c.standing <;> simp [x, mem_allPorts, Standing.state]
  unfold State.allReady
  rw [Bool.and_eq_true, decide_eq_true_iff, decide_eq_true_iff, any, all]

theorem State.thresholdMet_iff (s : State) :
    s.thresholdMet = true ↔ s.eligibleCount < 2 * s.voteCount := by
  unfold State.thresholdMet
  exact decide_eq_true_iff

/-! ### The countdown and its holds -/

/-- The entry into COUNTDOWN is as R27 and R116 state it. -/
theorem State.enterCountdown_spec (s : State) : s.EnteredCountdown s.enterCountdown := by
  constructor
  · intro calm
    have nobody : s.anyReadyLate = false := by
      rw [← Bool.not_eq_true, State.anyReadyLate_iff]
      exact calm
    unfold State.enterCountdown
    rw [nobody]
    have told := State.notifyPhase_told (.changed .countdown .none) (s.modifyRace fun r =>
      { r with phase := .countdown, gridWait := none, holdSlot := none
               countdown := some r.settings.countdownLength })
    exact ⟨told.rest, told.ports⟩
  · intro late
    unfold State.enterCountdown
    rw [(State.anyReadyLate_iff s).mpr late]
    have first := State.notifyPhase_told (.changed .countdown .none) (s.modifyRace fun r =>
      { r with phase := .countdown, gridWait := none, countdown := none
               holdSlot := some r.settings.countdownLength })
    have told := (first.trans (State.notifyPhase_told .held _)).congr fun q => by
      rw [first.isPresentPort, first.race]
    exact ⟨told.rest, told.ports⟩

/-- The hold test in COUNTDOWN is as R114 states it. -/
theorem State.holdTest_spec {s : State} (phase : s.race.phase = .countdown) : s.HoldTested s.holdTest := by
  constructor
  · intro slot late left timer one
    rw [State.holdTest_begins phase slot ((State.anyReadyLate_iff s).mpr late)]
    unfold State.beginHold
    have told := State.notifyPhase_told .held (s.modifyRace fun r =>
      { r with holdSlot := some (max 1 (r.countdown.getD 0)), countdown := none })
    have saved : max 1 (s.race.countdown.getD 0) = left := by
      rw [timer]
      exact Nat.max_eq_right one
    refine ⟨?_, told.ports⟩
    have rest := told.rest
    simp only [State.modifyRace, saved] at rest ⊢
    exact rest
  · intro saved slot calm
    have nobody : s.anyReadyLate = false := by
      rw [← Bool.not_eq_true, State.anyReadyLate_iff]
      exact calm
    rw [State.holdTest_resumes phase slot nobody]
    have told := State.notifyPhase_told .resumed (s.modifyRace fun r =>
      { r with holdSlot := none, countdown := some saved })
    exact ⟨told.rest, told.ports⟩
  · intro agrees
    refine State.holdTest_agrees ?_
    rw [← State.anyReadyLate_iff] at agrees
    exact Bool.eq_iff_iff.mpr agrees

/-! ### The entry into RESULTS and the end tests -/

/-- The entry into RESULTS, with its release test, is as R36 and R37 state it. -/
theorem State.enterResults_came (reason : Reason) (s : State) :
    s.CameToResults reason (s.enterResults reason) := by
  let u := ((s.stopRace reason).openResults reason).notifyPhase (.changed .results reason)
  have marked : ∀ q : Port, u.race.releaseSet.get q =
      (s.isRacePort q && decide ((s.port q).presence = .lost)) := fun q => by
    simp only [u, State.notifyPhase_race, State.openResults, Bank.get_mapPorts,
      State.stopRace_isRacePort]
    rfl
  have entered : s.EnteredResults reason u := {
    race := rfl
    released := fun q => by rw [marked]; simp
    cars := fun q => by
      simp [u, State.car, State.stopRace]
      rfl
    order := ⟨rfl, rfl, rfl, rfl⟩
    table := rfl
    course := rfl
    clock := ⟨rfl, rfl⟩
    ports := fun q => by
      rw [State.notifyPhase_port]
      rfl
    others := ⟨rfl, rfl⟩ }
  have racePort : ∀ q, u.isRacePort q = s.isRacePort q := State.stopRace_isRacePort s reason
  refine ⟨u, entered, ?_, ?_⟩
  · rintro ⟨p, racing, kept⟩
    refine State.releaseTest_waits (q := p) (by rw [racePort, racing]) ?_
    rw [marked]
    simp [kept]
  · intro nobody
    have all : s.enterResults reason = u.returnToIdle .released := State.releaseTest_done fun q racing => by
      rw [racePort] at racing
      rw [marked, racing, Bool.true_and, decide_eq_true_iff]
      exact Classical.byContradiction fun kept => nobody ⟨q, racing, kept⟩
    rw [all]
    exact State.returnToIdle_spec .released u

/-- The end tests are as R32 states them. -/
theorem State.endTests_spec (afterFinish : Bool) (s : State) :
    s.EndTested afterFinish (s.endTests afterFinish) := by
  have goes : s.SomeRunning → s.allDone = false := fun h => by
    rw [← Bool.not_eq_true, State.allDone_iff]
    exact not_not_intro h
  have short : 2 * s.voteCount ≤ s.eligibleCount → s.thresholdMet = false := fun h => by
    rw [← Bool.not_eq_true, State.thresholdMet_iff]
    exact Nat.not_lt.mpr h
  constructor
  · intro done finished
    rw [State.endTests_all_done ((State.allDone_iff s).mpr done),
      if_pos ((State.someFinished_iff s).mpr finished)]
    exact State.enterResults_came _ s
  · intro done unfinished
    rw [State.endTests_all_done ((State.allDone_iff s).mpr done),
      if_neg fun h => by
        obtain ⟨q, h⟩ := (State.someFinished_iff s).mp h
        exact unfinished q h]
    exact State.enterResults_came _ s
  · intro running votes
    rw [State.endTests_threshold (goes running) ((State.thresholdMet_iff s).mpr votes)]
    exact State.enterResults_came _ s
  · intro running votes finish green window
    unfold State.endTests
    rw [goes running, short votes, finish]
    simp only [green, window]
    exact State.enterResults_came _ s
  · intro running votes finish green window
    have first : s.endTests afterFinish = s.enterFinishing := by
      unfold State.endTests
      rw [goes running, short votes, finish]
      simp [green, window.ne']
    rw [first]
    have told := State.notifyPhase_told (.changed .finishing .none) (s.modifyRace fun r =>
      { r with phase := .finishing, closingWindow := some r.settings.closingWindow })
    exact ⟨told.rest, told.ports⟩
  · intro running votes other
    unfold State.endTests
    rw [goes running, short votes]
    rcases other with h | h
    · rw [h]; rfl
    · simp [h]

/-! ### Withdrawals and retirements -/

/-- A withdrawal is as R52 states it. -/
theorem State.withdraw_spec {s : State} {p : Port} {c : Car} (reason : Reason) (h : s.car p = some c) :
    s.Withdrawn p reason c (s.withdraw p reason) := by
  have only := State.withdraw_only reason h
  have cars : (s.withdraw p reason).cars = (s.removeEntry p c.entryPosition).cars := by rw [only.rest]
  have car : ∀ q, (s.withdraw p reason).car q = (s.removeEntry p c.entryPosition).car q := fun q => by
    unfold State.car
    rw [cars]
  constructor
  · rw [only.rest]
    rfl
  · rw [car]
    simp [State.car, State.removeEntry]
  · intro q other
    rw [car]
    simp only [State.car, State.removeEntry, Bank.get_set_ne _ _ other, Bank.get_map]
    rfl
  · intro before nodup q
    have order : ∀ t : State, t.race = s.race → t.runningOrder = t.entryList := fun t same => by
      unfold State.runningOrder
      rw [same, before]
      rfl
    have said := State.notifyRace_told (.entry p .withdrawn reason c.entryPosition) s
    let moved := (s.notifyRace (.entry p .withdrawn reason c.entryPosition)).removeEntry p
      c.entryPosition
    have told := State.notifyMove_told s.runningOrder moved (by
      rw [order moved rfl]
      exact nodup.filter _)
    have same : s.withdraw p reason = moved.notifyMove s.runningOrder := by
      unfold State.withdraw
      rw [h]
    have list : (moved.notifyMove s.runningOrder).entryList = moved.entryList := by rw [told.rest]
    have port := told.ports q
    rw [order moved rfl] at port
    rw [same, port, told.isRacePort, list, PortState.offerAll_append, order s rfl]
    exact congrArg _ (said.ports q)

/-- Several withdrawals of one event are each as R52 states it. -/
theorem State.withdrawEach_spec (reason : Reason) : ∀ (l : List Port) (s : State), l.Nodup →
    (∀ q ∈ l, s.car q ≠ none) → s.WithdrawnEach reason l (s.withdrawEach l reason) := by
  intro l
  induction l with
  | nil => exact fun s _ _ => rfl
  | cons p rest ih =>
    intro s nodup here
    obtain ⟨fresh, nodup⟩ := List.nodup_cons.mp nodup
    obtain ⟨c, car⟩ := Option.ne_none_iff_exists'.mp (here p List.mem_cons_self)
    have first := State.withdraw_spec reason car
    refine ⟨c, _, car, first, ih _ nodup fun q later => ?_⟩
    rw [first.others q fun same => fresh (same ▸ later)]
    simpa using here q (List.mem_cons_of_mem p later)

/-- What several withdrawals of one event leave: their cars are EMPTY and out of the entry list, and every
other car is as it was but for its entry position (R52, R44). -/
theorem State.WithdrawnEach.leaves {reason : Reason} : ∀ {l : List Port} {s t : State},
    s.WithdrawnEach reason l t →
    t = { s with cars := t.cars, entryList := s.entryList.filter (fun q => q ∉ l), ports := t.ports } ∧
    (∀ q ∈ l, t.car q = none) ∧
    ∀ q ∉ l, ∃ position : Nat, t.car q = (s.car q).map fun c => { c with entryPosition := position } := by
  intro l
  induction l with
  | nil =>
    rintro s t rfl
    refine ⟨by simp, by simp, fun q _ => ?_⟩
    cases car : t.car q with
    | none => exact ⟨0, rfl⟩
    | some c => exact ⟨c.entryPosition, rfl⟩
  | cons p rest ih =>
    rintro s t ⟨c, u, car, first, later⟩
    obtain ⟨same, gone, kept⟩ := ih later
    refine ⟨?_, ?_, ?_⟩
    · have lists : u.entryList.filter (fun q => q ∉ rest) =
          s.entryList.filter (fun q => q ∉ p :: rest) := by
        rw [first.rest]
        simp [List.filter_filter, Bool.and_comm]
      rw [lists] at same
      generalize t.cars = cars at same
      generalize t.ports = ports at same
      rw [same, first.rest]
    · intro q here
      rcases List.mem_cons.mp here with rfl | here
      · by_cases again : q ∈ rest
        · exact gone q again
        · obtain ⟨position, kept⟩ := kept q again
          rw [kept, first.gone]
          rfl
      · exact gone q here
    · intro q out
      obtain ⟨other, out⟩ := not_or.mp (mt List.mem_cons.mpr out)
      obtain ⟨position, kept⟩ := kept q out
      refine ⟨position, ?_⟩
      rw [kept, first.others q other, Option.map_map]
      cases s.car q with
      | none => rfl
      | some d =>
        simp only [Option.map_some, Function.comp]
        split <;> rfl

/-- Several withdrawals of one event do no more to the ports than offer them notices (R52). -/
theorem State.withdrawEach_ports (reason : Reason) : ∀ (l : List Port) (s : State) (q : Port),
    (s.port q).SameButNotices ((s.withdrawEach l reason).port q) := by
  intro l
  induction l with
  | nil => exact fun s q => rfl
  | cons p rest ih =>
    intro s q
    have first : (s.port q).SameButNotices ((s.withdraw p reason).port q) := by
      cases car : s.car p with
      | none =>
        rw [State.withdraw_none reason car]
        rfl
      | some c => exact (State.withdraw_only reason car).ports q
    exact first.trans (ih (s.withdraw p reason) q)

/-- The distance of a slot is not changed by what is told. -/
theorem State.Told.distance {l : Port → List Notice} {s t : State} (h : s.Told l t) (q : Port) :
    t.distance q = s.distance q := by
  unfold State.distance
  rw [h.car]

/-- A retirement is as R54 states it, and its end tests follow. -/
theorem State.retire_retired (p : Port) (reason : Reason) (s : State) :
    ∃ t : State, s.Retired p reason t ∧ s.retire p reason = t.endTests false := by
  refine ⟨_, ?_, rfl⟩
  let f : Car → Car := fun c => { c with standing := .retired reason s.raceClock }
  let retired := s.modifyCar p f
  have said := State.notifyRace_told (.carState p .retired reason) retired
  let placed := (retired.notifyRace (.carState p .retired reason)).retirementMove p
  have place : placed.retiredGroup = s.placeByDistance p s.retiredGroup :=
    State.placeByDistance_congr
      (fun q => (said.distance q).trans (State.modifyCar_distance s p q (f := f) fun _ => rfl)) p _
  have racePort : ∀ q, placed.isRacePort q = s.isRacePort q := fun q =>
    State.modifyCar_isRacePort s p q f
  let moved := placed.notifyMove s.runningOrder
  have only : placed.OnlyNotices moved := State.notifyMove_only _ _
  have dropped : (placed.dropVote p).OnlyNotices (moved.dropVote p) := by
    refine ⟨?_, only.ports⟩
    have rest := only.rest
    show moved.dropVote p = _
    generalize moved = u at rest
    rw [rest]
    rfl
  have voted := State.notifyVotes_only (moved.dropVote p)
  have all : (placed.dropVote p).OnlyNotices (moved.dropVote p).notifyVotes := dropped.trans voted
  have rest := all.rest
  have car : ∀ q, ((moved.dropVote p).notifyVotes).car q = retired.car q := fun q => by
    unfold State.car
    rw [rest]
    rfl
  constructor
  · have cars : ((moved.dropVote p).notifyVotes).cars = retired.cars := by
      rw [rest]
      rfl
    rw [cars, ← place]
    exact rest
  · rw [car, State.modifyCar_car_self]
  · intro q other
    rw [car, State.modifyCar_car_ne _ _ other]
  · intro nodup q
    have order : ((moved.dropVote p).notifyVotes).runningOrder = placed.runningOrder := by
      unfold State.runningOrder
      rw [rest]
      rfl
    rw [order] at nodup ⊢
    have told := State.notifyMove_told s.runningOrder placed nodup
    have eligible : ((moved.dropVote p).notifyVotes).eligibleCount = (moved.dropVote p).eligibleCount := rfl
    have port : ((moved.dropVote p).notifyVotes).port q =
        ((moved.dropVote p).port q).offerAll (noticeIf ((moved.dropVote p).isRacePort q)
          (.vote (moved.dropVote p).voteCount (moved.dropVote p).eligibleCount)) :=
      (State.notifyRace_told _ (moved.dropVote p)).ports q
    have race : (moved.dropVote p).isRacePort q = s.isRacePort q :=
      (told.isRacePort q).trans (racePort q)
    have here : (moved.dropVote p).port q = (s.port q).offerAll
        (noticeIf (s.isRacePort q) (.carState p .retired reason) ++
          moveNotices (s.isRacePort q) q s.runningOrder placed.runningOrder) := by
      rw [PortState.offerAll_append, ← racePort q]
      show moved.port q = _
      rw [told.ports]
      congr 1
      rw [racePort]
      exact (said.ports q).trans (by
        rw [show retired.isRacePort q = s.isRacePort q from racePort q]
        rfl)
    rw [port, here, race, ← PortState.offerAll_append]
    rfl

/-- The first port of all that satisfies a test is the lowest-numbered one. -/
theorem find?_lowest {test : Port → Bool} {q : Port} (this : test q = true)
    (lowest : ∀ x : Port, x < q → test x = false) : allPorts.find? test = some q := by
  have split : ∀ q : Port, ∃ before after : List Port,
      allPorts = before ++ q :: after ∧ ∀ x ∈ before, x < q := by
    intro q
    refine ⟨allPorts.take q.val, allPorts.drop (q.val + 1), ?_⟩
    revert q
    decide
  obtain ⟨before, after, all, below⟩ := split q
  rw [all, List.find?_append, List.find?_eq_none.mpr fun x h => by simp [lowest x (below x h)]]
  simp [this]

/-- The tests that follow a withdrawal are as R52 and R53 state them. -/
theorem State.withdrawAndTest_spec {s : State} {p : Port} {c : Car} (reason : Reason)
    (h : s.car p = some c) :
    ∃ u : State, s.Withdrawn p reason c u ∧ u.AfterWithdrawal p (s.withdrawAndTest p reason) := by
  refine ⟨s.withdraw p reason, State.withdraw_spec reason h, ?_⟩
  unfold State.withdrawAndTest
  generalize s.withdraw p reason = u
  dsimp only
  constructor
  · intro forming other
    rw [forming]
    exact if_neg other
  · intro forming own q entered lowest
    rw [forming]
    dsimp only
    rw [if_pos own]
    have found : allPorts.find? (fun p => u.carState p = .entered) = some q :=
      find?_lowest (by simpa using entered) fun x below => by simpa using lowest x below
    unfold State.handover
    rw [found]
    have told := State.notifyPhase_told (.opener q) (u.modifyRace fun r => { r with opener := some q })
    exact ⟨told.rest, told.ports⟩
  · intro forming own nobody
    rw [forming]
    dsimp only
    rw [if_pos own]
    have none : allPorts.find? (fun p => u.carState p = .entered) = none :=
      List.find?_eq_none.mpr fun x _ => by simp [nobody x]
    unfold State.handover
    rw [none]
    exact State.returnToIdle_spec _ _
  · intro before empty
    have zero : u.carCount = 0 := (State.carCount_zero_iff u).mpr empty
    rcases before with grid | count
    · rw [grid]
      simp only [State.gridTests, zero, if_true]
      exact State.returnToIdle_spec _ _
    · rw [count]
      simp only [State.countdownTests, zero, if_true]
      exact State.returnToIdle_spec _ _
  · rintro grid ⟨q, car, unready⟩
    have some : u.carCount ≠ 0 := fun zero => car ((State.carCount_zero_iff u).mp zero q)
    have waits : ¬u.allReady = true := fun h => unready (((State.allReady_iff u).mp h).2 q car)
    rw [grid]
    simp only [State.gridTests, if_neg some, if_neg waits]
  · intro grid exist ready
    obtain ⟨q, car⟩ := exist
    have some : u.carCount ≠ 0 := fun zero => car ((State.carCount_zero_iff u).mp zero q)
    rw [grid]
    simp only [State.gridTests, if_neg some, if_pos ((State.allReady_iff u).mpr ⟨⟨q, car⟩, ready⟩)]
    exact State.enterCountdown_spec u
  · rintro count ⟨q, car⟩
    have some : u.carCount ≠ 0 := fun zero => car ((State.carCount_zero_iff u).mp zero q)
    rw [count]
    simp only [State.countdownTests, if_neg some]
    exact State.holdTest_spec count

/-! ### Effects of presence (R137 to R139) -/

/-- A change of one car's standing, with its CAR_STATE notice, touches that car and tells the race ports. -/
theorem State.changeStanding_told {s : State} {p : Port} {c : Car} (f : Car → Car) (n : Notice)
    (h : s.car p = some c) :
    let t := (s.modifyCar p f).notifyRace n
    t = { s with cars := t.cars, ports := t.ports } ∧ t.car p = some (f c) ∧ s.OtherCars p t ∧
      ∀ q : Port, t.port q = (s.port q).offerAll (noticeIf (s.isRacePort q) n) := by
  have said := State.notifyRace_told n (s.modifyCar p f)
  refine ⟨rfl, ?_, fun q other => ?_, fun q => ?_⟩
  · rw [said.car, State.modifyCar_car_self, h]
    rfl
  · rw [said.car, State.modifyCar_car_ne _ _ other]
  · rw [said.ports, State.modifyCar_isRacePort]
    rfl

/-- A car's state, from its standing. -/
theorem State.carState_of {s : State} {p : Port} {c : Car} (h : s.car p = some c) :
    s.carState p = c.standing.state := by
  unfold State.carState
  rw [h]

/-- The effects of a port going LATE are as R137 states them. -/
theorem State.lateEffects_spec (p : Port) (reason : Reason) (s : State) :
    s.LateEffects p reason (s.lateEffects p reason) := by
  constructor
  · intro running c car racing
    rw [State.lateEffects_racing reason running (by rw [State.carState_of car, racing]; rfl)]
    exact State.changeStanding_told _ _ car
  · intro count ready
    unfold State.lateEffects
    rw [if_neg (by rw [count]; decide), if_pos ⟨count, ready⟩]
    exact State.holdTest_spec count
  · intro still steady
    unfold State.lateEffects
    by_cases running : s.race.phase.running = true
    · rw [if_pos running, if_neg fun racing => still ⟨running, racing⟩]
    · rw [if_neg running, if_neg steady]

/-- The effects of a return from LATE are as R138 states them. -/
theorem State.returnEffects_spec (p : Port) (s : State) : s.ReturnEffects p (s.returnEffects p) := by
  constructor
  · intro running c car coasting
    rw [State.returnEffects_coasting running (by rw [State.carState_of car, coasting]; rfl)]
    exact State.changeStanding_told _ _ car
  · intro count ready
    unfold State.returnEffects
    rw [if_neg (by rw [count]; decide), if_pos ⟨count, ready⟩]
    exact State.holdTest_spec count
  · intro still steady
    unfold State.returnEffects
    by_cases running : s.race.phase.running = true
    · rw [if_pos running, if_neg fun coasting => still ⟨running, coasting⟩]
    · rw [if_neg running, if_neg steady]

/-- A release joins the release set, and the last one returns the race to IDLE (R37, R38). -/
theorem State.release_spec (p : Port) (s : State) :
    ((∃ q : Port, q ≠ p ∧ s.isRacePort q = true ∧ s.race.releaseSet.get q = false) →
      s.release p = { s with race := { s.race with releaseSet := s.race.releaseSet.set p true } }) ∧
    ((∀ q : Port, q ≠ p → s.isRacePort q = true → s.race.releaseSet.get q = true) →
      s.ReturnedToIdle .released (s.release p)) := by
  constructor
  · rintro ⟨q, other, racing, waits⟩
    exact State.releaseTest_waits (q := q) racing (by
      simp only [State.modifyRace, Bank.get_set_ne _ _ other, waits])
  · intro all
    have done : s.release p = _ := State.releaseTest_done fun q racing => by
      by_cases e : q = p
      · simp [State.modifyRace, e]
      · simpa only [State.modifyRace, Bank.get_set_ne _ _ e] using all q e racing
    rw [done]
    have back := State.returnToIdle_spec .released
      (s.modifyRace fun r => { r with releaseSet := r.releaseSet.set p true })
    exact ⟨back.race, back.cars, back.course, back.lists, back.clock, back.ports, back.others⟩

/-- The effects of a port becoming LOST are as R139 states them. -/
theorem State.lostEffects_spec (p : Port) (s : State) : s.LostEffects p (s.lostEffects p) := by
  constructor
  · intro phase c car
    have race : s.isRacePort p = true := by rw [State.isRacePort, car]; rfl
    have same : s.lostEffects p = s.withdrawAndTest p .silent := by
      unfold State.lostEffects
      rcases phase with h | h | h <;> rw [h] <;> exact if_pos race
    rw [same]
    exact State.withdrawAndTest_spec .silent car
  · intro running coasting
    have same : s.lostEffects p = s.retire p (if (s.port p).fenced then .fenced else .silent) := by
      unfold State.lostEffects
      cases h : s.race.phase <;> simp [h, Phase.running] at running ⊢ <;> simp [coasting]
    rw [same]
    obtain ⟨u, retired, ends⟩ := State.retire_retired p
      (if (s.port p).fenced then .fenced else .silent) s
    exact ⟨u, retired, by rw [ends]; exact State.endTests_spec false u⟩
  · intro phase race waits
    have same : s.lostEffects p = s.release p := by
      unfold State.lostEffects
      rw [phase]
      exact if_pos race
    rw [same]
    exact (State.release_spec p s).1 waits
  · intro phase race all
    have same : s.lostEffects p = s.release p := by
      unfold State.lostEffects
      rw [phase]
      exact if_pos race
    rw [same]
    exact (State.release_spec p s).2 all
  · intro nothing
    unfold State.lostEffects State.isRacePort State.carState
    rcases nothing with h | h | ⟨h, k⟩
    · rw [h]
    · rw [h]
      cases s.race.phase <;> simp
    · unfold State.carState at k
      cases phase : s.race.phase <;> simp [phase, Phase.running] at h ⊢ <;> exact fun x => absurd x k

/-! ### Major errors and link loss -/

/-- A major error is as R140 to R143 state it. -/
theorem State.majorError_spec (p : Port) (kind : ErrorKind) (requestKind : Option Byte) (s : State) :
    s.TookMajorError p kind requestKind (s.majorError p kind requestKind) := by
  constructor
  · exact State.majorError_first kind requestKind
  · exact fun record => State.majorError_second kind requestKind
  · intro record held multiple free away
    rw [State.majorError_third kind requestKind held multiple free]
    unfold State.fence
    rcases away with h | h <;> rw [h] <;> dsimp only <;> unfold State.goLate <;>
      rw [State.modifyPort_modifyPort] <;> exact State.lateEffects_spec p .fenced _
  · intro record held multiple free late
    rw [State.majorError_third kind requestKind held multiple free]
    unfold State.fence
    rw [late]
  · exact fun record => State.majorError_fenced kind requestKind

/-- What a port loses with its link is everything on it (R171, R179). -/
theorem PortState.dropLink_flushed (c : PortState) : c.dropLink = c.flushed := rfl

/-- A link that goes DOWN is as R179 and R133 state it. -/
theorem State.linkDown_spec (p : Port) (s : State) : s.LostLink p (s.linkDown p) := by
  constructor
  · intro present
    unfold State.linkDown State.goLate
    rw [if_pos present, State.modifyPort_modifyPort]
    exact State.lateEffects_spec p .silent _
  · intro away
    unfold State.linkDown
    rw [if_neg away]
    rfl

end Sys2Proof.Machine
end

