-- ==== Sys2Proof/Laws/Crossings.lean ====
section
/-! SUPPORT. The gate chain of a race, and what the crossings of one report do: the gates crossed, the lap
times, the finish and the notices, in the terms of Safety. -/
namespace Sys2Proof.Machine

/-! ### The chain (R10) -/

/-- A gate of the chain (R8, R10). -/
def Course.OnChain (course : Course) (laps : Nat) (g : Gate) : Prop :=
  (1 ≤ g.lap ∧ g.lap ≤ laps ∧ g.index < course.gates.length) ∨ g = ⟨laps + 1, 0⟩

/-- The place of a gate in the chain, from 0. -/
def Course.place (course : Course) (g : Gate) : Nat := (g.lap - 1) * course.gates.length + g.index

/-- A sound course has a gate. -/
theorem Course.Sound.gates {course : Course} (h : course.Sound) : 0 < course.gates.length := by
  simp only [Course.Sound, validDefinition, Bool.and_eq_true, decide_eq_true_iff] at h
  omega

/-- Of the gates of a sound course, gate 0 alone is a LINE (R3). -/
theorem Course.Sound.line {course : Course} (h : course.Sound) (index : Nat) :
    course.gateKind index = .line ↔ index = 0 := by
  simp only [Course.Sound, validDefinition, Bool.and_eq_true, beq_iff_eq, List.all_eq_true,
    decide_eq_true_iff] at h
  obtain ⟨⟨⟨⟨_, head⟩, tail⟩, _⟩, _⟩ := h
  unfold Course.gateKind
  cases gates : course.gates with
  | nil => simp [gates] at head
  | cons first rest =>
    rw [gates, List.head?_cons, Option.some.injEq] at head
    cases index with
    | zero => simp [head]
    | succ i =>
      rw [List.getElem?_cons_succ]
      cases entry : rest[i]? with
      | none => simp
      | some g =>
        have kind := tail g (by rw [gates]; exact List.mem_of_getElem? entry)
        simpa using kind

/-- The gate after a gate of the chain is a gate of the chain, one place further on (R10). -/
theorem Course.next_onChain {course : Course} {laps : Nat} {g h : Gate} (gated : 0 < course.gates.length)
    (on : course.OnChain laps g) (next : course.next laps g = some h) :
    course.OnChain laps h ∧ course.place h = course.place g + 1 := by
  unfold Course.next at next
  rcases on with ⟨one, most, index⟩ | rfl
  · split at next
    · exact absurd next (by simp)
    · split at next
      · next more =>
        obtain rfl := Option.some.inj next
        exact ⟨.inl ⟨one, most, more⟩, rfl⟩
      · obtain rfl := Option.some.inj next
        constructor
        · by_cases last : g.lap = laps
          · exact .inr (by rw [last])
          · exact .inl ⟨by dsimp only; omega, by dsimp only; omega, gated⟩
        · have lap : g.lap = g.lap - 1 + 1 := by omega
          have index' : g.index + 1 = course.gates.length := by omega
          unfold Course.place
          dsimp only
          rw [Nat.add_sub_cancel, Nat.add_assoc, index']
          conv_lhs => rw [lap]
          ring
  · simp at next

/-- No gate of the chain lies beyond its last place. -/
theorem Course.place_le {course : Course} {laps : Nat} {g : Gate} (on : course.OnChain laps g) :
    course.place g ≤ laps * course.gates.length := by
  unfold Course.place
  rcases on with ⟨one, most, index⟩ | rfl
  · have lap : (g.lap - 1 + 1) * course.gates.length ≤ laps * course.gates.length :=
      Nat.mul_le_mul_right _ (by omega)
    rw [Nat.add_mul, Nat.one_mul] at lap
    omega
  · simp

/-! ### Crossings (R78 to R81) -/

/-- A car after the crossing of gates in order at `now` (R78, R79, R81). -/
def Car.cross (course : Course) (laps now : Nat) (gates : List Gate) (c : Car) : Car :=
  { c with
    standing := if (⟨laps + 1, 0⟩ : Gate) ∈ gates then .finished now else c.standing
    floorGate := gates.getLastD c.floorGate
    nextGate := course.next laps (gates.getLastD c.floorGate)
    laps := c.laps ++ lapTimes now c.lastLine gates
    lastLine := lastLineAfter now c.lastLine gates }

/-- What the crossing of gates in order tells each port: the own port its GATE notices, and then, at the
finish, the race ports the FINISH notice (R80, R81). -/
def crossingNotices (course : Course) (laps now : Nat) (gates : List Gate) (p : Port) (c : Car)
    (place : Nat) (q : Port) (isRace : Bool) : List Notice :=
  (if q = p then gateNotices course now c.lastLine gates else []) ++
    noticeIf (isRace && decide ((⟨laps + 1, 0⟩ : Gate) ∈ gates)) (.finish p place now)

/-- What the crossing of gates in order does to a state. -/
structure State.Crossing (p : Port) (now : Nat) (course : Course) (gates : List Gate) (c : Car)
    (s t : State) : Prop where
  rest : t = { s with
    cars := t.cars, ports := t.ports
    finishList := s.finishList ++
      if (⟨s.race.settings.laps + 1, 0⟩ : Gate) ∈ gates then [⟨p, now⟩] else [] }
  car : t.car p = some (c.cross course s.race.settings.laps now gates)
  others : s.OtherCars p t
  ports : ∀ q : Port, t.port q = (s.port q).offerAll
    (crossingNotices course s.race.settings.laps now gates p c (s.finishList.length + 1) q
      (s.isRacePort q))

/-- One crossing (R78 to R81). -/
theorem State.crossGate_spec {s : State} {p : Port} {now : Nat} {course : Course} {c : Car} {g : Gate}
    (sound : course.Sound) (car : s.car p = some c) :
    s.Crossing p now course [g] c (s.crossGate p now course c g) := by
  have line := sound.line g.index
  have last : g = ⟨s.race.settings.laps + 1, 0⟩ → g.index = 0 := fun e => by rw [e]
  unfold State.crossGate
  cases kind : course.gateKind g.index with
  | plain =>
    have inner : ¬g.index = 0 := fun e => by rw [line.mpr e] at kind; exact absurd kind (by decide)
    have more : ¬(⟨s.race.settings.laps + 1, 0⟩ : Gate) = g := fun e => inner (last e.symm)
    refine ⟨by simp [more]; rfl, ?_, fun q other => ?_, fun q => ?_⟩
    · rw [State.modifyCar_car_self, car]
      simp [Car.cross, lapTimes, lastLineAfter, inner, more]
    · rw [State.modifyCar_car_ne _ _ other]
    · simp [crossingNotices, gateNotices, kind, more, noticeIf]
  | sector =>
    have inner : ¬g.index = 0 := fun e => by rw [line.mpr e] at kind; exact absurd kind (by decide)
    have more : ¬(⟨s.race.settings.laps + 1, 0⟩ : Gate) = g := fun e => inner (last e.symm)
    dsimp only
    generalize floored : s.modifyCar p (fun x =>
      { x with floorGate := g, nextGate := course.next s.race.settings.laps g }) = u
    have told := State.notifyOwn_told p (.gate g now none) u
    refine ⟨by rw [told.rest, ← floored]; simp [more, State.modifyCar], ?_, fun q other => ?_, fun q => ?_⟩
    · rw [told.car, ← floored, State.modifyCar_car_self, car]
      simp [Car.cross, lapTimes, lastLineAfter, inner, more]
    · rw [told.car, ← floored, State.modifyCar_car_ne _ _ other]
    · rw [told.ports, ← floored]
      by_cases e : q = p <;> simp [crossingNotices, gateNotices, kind, more, noticeIf, e]
  | line =>
    have first : g.index = 0 := line.mp kind
    dsimp only
    generalize lapped : (s.modifyCar p (fun x =>
      { x with floorGate := g, nextGate := course.next s.race.settings.laps g })).modifyCar p
        (Car.completeLap now) = u
    have same : u.race = s.race ∧ u.finishList = s.finishList ∧ (∀ q, u.port q = s.port q) ∧
        (∀ q, u.isRacePort q = s.isRacePort q) ∧ u.car p = some { c with
          floorGate := g, nextGate := course.next s.race.settings.laps g
          laps := c.laps ++ [now - c.lastLine], lastLine := now } ∧
        (∀ q, q ≠ p → u.car q = s.car q) ∧ u = { s with cars := u.cars } := by
      subst lapped
      refine ⟨rfl, rfl, fun _ => rfl, fun q => ?_, ?_, fun q other => ?_, rfl⟩
      · rw [State.modifyCar_isRacePort, State.modifyCar_isRacePort]
      · rw [State.modifyCar_car_self, State.modifyCar_car_self, car]
        rfl
      · rw [State.modifyCar_car_ne _ _ other, State.modifyCar_car_ne _ _ other]
    obtain ⟨race, list, port, isRace, own, others, only⟩ := same
    have told := State.notifyOwn_told p (.gate g now (some (now - c.lastLine))) u
    generalize u.notifyOwn p (.gate g now (some (now - c.lastLine))) = v at told
    by_cases e : g = ⟨s.race.settings.laps + 1, 0⟩
    · have member : (⟨s.race.settings.laps + 1, 0⟩ : Gate) ∈ [g] := by rw [← e]; simp
      rw [if_pos e]
      unfold State.finishCar
      have length : (v.finishList ++ [⟨p, now⟩] : List FinishEntry).length =
          s.finishList.length + 1 := by
        rw [List.length_append, told.rest]
        show u.finishList.length + 1 = _
        rw [list]
      dsimp only
      rw [length]
      generalize finished : ({ v.modifyCar p (fun c => { c with standing := .finished now }) with
        finishList := v.finishList ++ [⟨p, now⟩] } : State) = w
      have racing : ∀ q, w.isRacePort q = s.isRacePort q := fun q => by
        rw [← finished]
        exact (State.modifyCar_isRacePort v p q _).trans ((told.isRacePort q).trans (isRace q))
      have said := State.notifyRace_told (.finish p (s.finishList.length + 1) now) w
      refine ⟨?_, ?_, fun q other => ?_, fun q => ?_⟩
      · rw [if_pos member, said.rest, ← finished, told.rest]
        dsimp only
        rw [only]
        rfl
      · rw [said.car, ← finished]
        show (v.modifyCar p _).car p = _
        rw [State.modifyCar_car_self, told.car, own]
        simp [Car.cross, lapTimes, lastLineAfter, first, ← e]
      · rw [said.car, ← finished]
        show (v.modifyCar p _).car q = _
        rw [State.modifyCar_car_ne _ _ other, told.car, others q other]
      · rw [said.ports, racing, ← finished]
        show (v.port q).offerAll _ = _
        rw [told.ports, port, ← PortState.offerAll_append]
        by_cases h : q = p <;> simp [crossingNotices, gateNotices, kind, noticeIf, h, ← e]
    · have more : ¬(⟨s.race.settings.laps + 1, 0⟩ : Gate) = g := fun h => e h.symm
      rw [if_neg e]
      refine ⟨?_, ?_, fun q other => ?_, fun q => ?_⟩
      · rw [told.rest, only]
        simp [more]
      · rw [told.car, own]
        simp [Car.cross, lapTimes, lastLineAfter, first, more]
      · rw [told.car, others q other]
      · rw [told.ports, port]
        by_cases h : q = p <;> simp [crossingNotices, gateNotices, kind, more, noticeIf, h]

/-! ### Several crossings -/

theorem lapTimes_cons (now last : Nat) (g : Gate) (gates : List Gate) :
    lapTimes now last (g :: gates) =
      lapTimes now last [g] ++ lapTimes now (lastLineAfter now last [g]) gates := by
  by_cases h : g.index = 0 <;> simp [lapTimes, lastLineAfter, h]

theorem gateNotices_cons {course : Course} (sound : course.Sound) (now last : Nat) (g : Gate)
    (gates : List Gate) : gateNotices course now last (g :: gates) =
      gateNotices course now last [g] ++
        gateNotices course now (lastLineAfter now last [g]) gates := by
  have line := sound.line g.index
  cases kind : course.gateKind g.index with
  | plain | sector =>
    have inner : ¬g.index = 0 := fun e => by rw [line.mpr e] at kind; exact absurd kind (by decide)
    simp [gateNotices, lastLineAfter, kind, inner]
  | line =>
    have first := line.mp kind
    rw [first] at kind
    simp [gateNotices, lastLineAfter, kind, first]

theorem lastLineAfter_cons (now last : Nat) (g : Gate) (gates : List Gate) :
    lastLineAfter now last (g :: gates) =
      lastLineAfter now (lastLineAfter now last [g]) gates := by
  by_cases h : g.index = 0 <;> simp [lastLineAfter, h]

/-- One crossing, short of the finish, and the crossings after it. -/
theorem State.Crossing.cons {p : Port} {now : Nat} {course : Course} {g : Gate} {gates : List Gate}
    {c : Car} {s u t : State} (sound : course.Sound) (car : s.car p = some c)
    (more : g ≠ ⟨s.race.settings.laps + 1, 0⟩) (h : s.Crossing p now course [g] c u)
    (k : u.Crossing p now course gates (c.cross course s.race.settings.laps now [g]) t) :
    s.Crossing p now course (g :: gates) c t := by
  have more' : ¬(⟨s.race.settings.laps + 1, 0⟩ : Gate) = g := fun e => more e.symm
  have race : u.race = s.race := by rw [h.rest]
  have list : u.finishList = s.finishList := by rw [h.rest]; simp [more']
  have isRace : ∀ q, u.isRacePort q = s.isRacePort q := fun q => by
    unfold State.isRacePort
    by_cases e : q = p
    · rw [e, h.car, car]
      rfl
    · rw [h.others q e]
  have both : (c.cross course s.race.settings.laps now [g]).cross course s.race.settings.laps now gates =
      c.cross course s.race.settings.laps now (g :: gates) := by
    unfold Car.cross
    simp only [List.mem_cons, more', false_or, List.not_mem_nil, if_false, List.append_assoc,
      ← lapTimes_cons, ← lastLineAfter_cons, List.getLastD_cons]
    rfl
  refine ⟨?_, ?_, fun q other => ?_, fun q => ?_⟩
  · rw [k.rest, h.rest]
    simp [more']
  · rw [k.car, race, both]
  · rw [k.others q other, h.others q other]
  · rw [k.ports, h.ports, race, list, isRace, ← PortState.offerAll_append]
    congr 1
    unfold crossingNotices
    by_cases e : q = p
    · simp only [if_pos e, List.mem_cons, more', false_or, List.not_mem_nil, decide_false,
        Bool.and_false]
      rw [gateNotices_cons sound now c.lastLine g gates]
      simp [noticeIf, Car.cross]
    · simp [e, more', noticeIf]

/-- No crossing at all. -/
theorem State.Crossing.nil {p : Port} {now : Nat} {course : Course} {c : Car} {s : State}
    (car : s.car p = some c) (next : c.nextGate = course.next s.race.settings.laps c.floorGate) :
    s.Crossing p now course [] c s := by
  refine ⟨by simp, ?_, fun _ _ => rfl, fun q => ?_⟩
  · rw [car]
    simp [Car.cross, lapTimes, lastLineAfter, ← next]
  · by_cases e : q = p <;> simp [crossingNotices, gateNotices, noticeIf, e]

/-- The crossings of a report take the gates of the chain one after another as far as they lie at or below
D; enough turns reach the last of them (R78). -/
theorem State.crossGates_spec {p : Port} {now : Nat} {course : Course} (sound : course.Sound) :
    ∀ (turns : Nat) {s : State} {c : Car}, s.car p = some c →
      course.OnChain s.race.settings.laps c.floorGate →
      c.nextGate = course.next s.race.settings.laps c.floorGate →
      s.race.settings.laps * course.gates.length < turns + course.place c.floorGate →
    ∃ gates : List Gate, s.Crossing p now course gates c (s.crossGates p now course turns) ∧
      course.IsChain s.race.settings.laps c.floorGate gates ∧
      (∀ g ∈ gates, course.position g ≤ c.distance) ∧
      course.OnChain s.race.settings.laps (gates.getLastD c.floorGate) ∧
      ∀ g, course.next s.race.settings.laps (gates.getLastD c.floorGate) = some g →
        c.distance < course.position g := by
  intro turns
  induction turns with
  | zero =>
    intro s c _ on _ enough
    have := Course.place_le on
    omega
  | succ turns ih =>
    intro s c car on next enough
    unfold State.crossGates
    rw [car]
    dsimp only
    cases ahead : c.nextGate with
    | none =>
      refine ⟨[], State.Crossing.nil car next, trivial, by simp, on, fun g h => ?_⟩
      rw [List.getLastD_nil, ← next, ahead] at h
      exact absurd h (by simp)
    | some g =>
      dsimp only
      by_cases reached : course.position g ≤ c.distance
      · rw [if_pos reached]
        obtain ⟨on', place⟩ := Course.next_onChain sound.gates on (next.symm.trans ahead)
        have one := State.crossGate_spec (p := p) (now := now) (g := g) sound car
        generalize s.crossGate p now course c g = u at one
        have race : u.race = s.race := by rw [one.rest]
        have floor : (c.cross course s.race.settings.laps now [g]).floorGate = g := rfl
        obtain ⟨gates, k, chain, below, on'', beyond⟩ := ih one.car (by rw [race, floor]; exact on')
          (by rw [race]; rfl) (by rw [race, floor]; omega)
        rw [race, floor] at chain on'' beyond
        have link : course.IsChain s.race.settings.laps c.floorGate (g :: gates) :=
          ⟨next.symm.trans ahead, chain⟩
        have close : (g :: gates).getLastD c.floorGate = gates.getLastD g := List.getLastD_cons ..
        by_cases last : g = ⟨s.race.settings.laps + 1, 0⟩
        · have only : gates = [] := by
            cases gates with
            | nil => rfl
            | cons h rest =>
              have := chain.1
              simp [last, Course.next] at this
          subst only
          have same : u.crossGates p now course turns = u := by
            cases turns with
            | zero => rfl
            | succ turns =>
              unfold State.crossGates
              rw [one.car]
              simp [Car.cross, last, Course.next]
          rw [same]
          exact ⟨[g], one, link, by simpa using reached, on'', beyond⟩
        · refine ⟨g :: gates, .cons sound car last one k, link, ?_, by rw [close]; exact on'', ?_⟩
          · intro h member
            rcases List.mem_cons.mp member with rfl | member
            · exact reached
            · exact below h member
          · rw [close]
            exact beyond
      · rw [if_neg reached]
        refine ⟨[], .nil car next, trivial, by simp, on, fun h this => ?_⟩
        rw [List.getLastD_nil, ← next, ahead] at this
        obtain rfl := Option.some.inj this
        exact Nat.lt_of_not_le reached

end Sys2Proof.Machine
end

