-- ==== Sys2Proof/Laws/Reception.lean ====
section
/-! SUPPORT. Reception: the receiver's search is the search that the rules state, and no other; and the
arrival of a frame does what its rules state. -/
namespace Sys2Proof.Machine

/-! ### The candidate at the first byte -/

theorem candidate_other {b : Byte} (rest : List Byte) (h : b ≠ 0xC3) : candidate (b :: rest) = .passed := by
  unfold candidate
  exact if_pos h

/-- A candidate with its LEN (R172). -/
theorem candidate_sync (len : Byte) (more : List Byte) : candidate (0xC3 :: len :: more) =
    if 240 < len.toNat then .badLength
    else if more.length < len.toNat + 3 then .incomplete
    else if (more.drop (len.toNat + 1)).take 2 =
        checkBytes (frameCheck (len :: more.take (len.toNat + 1))) then
      .valid (more.headD 0) ((more.drop 1).take len.toNat) (len.toNat + 5)
    else .badCheck (len.toNat + 5) := by
  unfold candidate
  exact if_neg (by decide)

theorem candidate_long {len : Byte} (rest : List Byte) (h : 240 < len.toNat) :
    candidate (0xC3 :: len :: rest) = .badLength := by
  rw [candidate_sync, if_pos h]

theorem candidate_short {len : Byte} {rest : List Byte} (h : len.toNat ≤ 240)
    (short : rest.length < len.toNat + 3) : candidate (0xC3 :: len :: rest) = .incomplete := by
  rw [candidate_sync, if_neg (Nat.not_lt.mpr h), if_pos short]

/-- A complete candidate is judged by its check (R172). -/
theorem candidate_complete {len kind x y : Byte} {payload rest : List Byte}
    (length : payload.length = len.toNat) (h : len.toNat ≤ 240) :
    candidate (0xC3 :: len :: kind :: (payload ++ x :: y :: rest)) =
      if [x, y] = checkBytes (frameCheck (len :: kind :: payload)) then
        .valid kind payload (payload.length + 5)
      else .badCheck (payload.length + 5) := by
  have long : ¬(kind :: (payload ++ x :: y :: rest)).length < len.toNat + 3 := by
    simp only [List.length_cons, List.length_append]
    omega
  rw [candidate_sync, if_neg (Nat.not_lt.mpr h), if_neg long]
  simp [← length]

/-! ### The search -/

/-- The search finds what the rules say, with as many turns as there are bytes (R172, R173). -/
theorem search_searched (p : Port) : ∀ (turns : Nat) (r : Receiver), r.bytes.length ≤ turns →
    Receiver.Searched p r (search p turns r).1 (search p turns r).2 := by
  intro turns
  induction turns with
  | zero =>
    rintro ⟨bytes, discarded⟩ h
    obtain rfl := List.length_eq_zero_iff.mp (Nat.le_zero.mp h)
    exact .hunts discarded
  | succ turns ih =>
    rintro ⟨bytes, discarded⟩ h
    match bytes with
    | [] => exact .hunts discarded
    | b :: rest =>
      have fewer : rest.length ≤ turns := Nat.le_of_succ_le_succ h
      by_cases sync : b = 0xC3
      · subst sync
        match rest with
        | [] => exact .awaitsLength discarded
        | len :: more =>
          by_cases long : 240 < len.toNat
          · simp only [search, candidate_long more long]
            exact .longLength long (ih ⟨len :: more, _⟩ fewer)
          · have small := Nat.not_lt.mp long
            by_cases short : more.length < len.toNat + 3
            · simp only [search, candidate_short small short]
              exact .awaitsBytes discarded small short
            · obtain ⟨kind, payload, x, y, rest, rfl, length⟩ :
                  ∃ (kind : Byte) (payload : List Byte) (x y : Byte) (rest : List Byte),
                    more = kind :: (payload ++ x :: y :: rest) ∧ payload.length = len.toNat := by
                match more with
                | [] => simp at short
                | kind :: tail =>
                  have enough : len.toNat + 2 ≤ tail.length := by
                    simp only [List.length_cons] at short
                    omega
                  have left : 2 ≤ (tail.drop len.toNat).length := by
                    rw [List.length_drop]
                    omega
                  match after : tail.drop len.toNat with
                  | [] => simp [after] at left
                  | [_] => simp [after] at left
                  | x :: y :: rest =>
                    refine ⟨kind, tail.take len.toNat, x, y, rest, ?_, ?_⟩
                    · rw [← after, List.take_append_drop]
                    · rw [List.length_take]
                      omega
              have judged := candidate_complete (kind := kind) (x := x) (y := y) (rest := rest) length small
              by_cases check : [x, y] = checkBytes (frameCheck (len :: kind :: payload))
              · rw [if_pos check] at judged
                simp only [search, judged]
                have bytes : (0xC3 : Byte) :: len :: kind :: (payload ++ x :: y :: rest) =
                    Frame.bytes ⟨kind, payload⟩ ++ rest := by
                  simp only [Frame.bytes, Frame.body, length, BitVec.ofNat_toNat, BitVec.setWidth_eq,
                    ← check]
                  simp [syncByte]
                have behind : ((0xC3 : Byte) :: len :: kind :: (payload ++ x :: y :: rest)).drop
                    (payload.length + 5) = rest := by
                  have split : (0xC3 : Byte) :: len :: kind :: (payload ++ x :: y :: rest) =
                      ((0xC3 : Byte) :: len :: kind :: (payload ++ [x, y])) ++ rest := by simp
                  rw [split]
                  exact List.drop_left' (by simp)
                rw [behind, bytes]
                refine .frame (by omega) (ih ⟨rest, _⟩ ?_)
                simp only [List.length_cons, List.length_append] at fewer ⊢
                omega
              · rw [if_neg check] at judged
                simp only [search, judged]
                exact .wrongCheck length small check (ih ⟨_, _⟩ fewer)
      · simp only [search, candidate_other rest sync]
        exact .passes sync (ih ⟨rest, discarded - 1⟩ fewer)

/-- What the rules say is found is what the search finds: the rules leave no choice (R172, R173). -/
theorem Receiver.Searched.search_eq {p : Port} {r t : Receiver} {found : List Instr}
    (h : Receiver.Searched p r t found) :
    ∀ turns : Nat, r.bytes.length ≤ turns → search p turns r = (t, found) := by
  induction h with
  | hunts => rintro (_ | turns) _ <;> rfl
  | @passes _ b rest _ _ other _ ih =>
    rintro (_ | turns) h
    · exact absurd h (by simp)
    · simp only [search, candidate_other rest other]
      exact ih turns (Nat.le_of_succ_le_succ h)
  | awaitsLength =>
    rintro (_ | turns) _
    · rfl
    · rfl
  | awaitsBytes _ small short =>
    rintro (_ | turns) _
    · rfl
    · simp only [search, candidate_short small short]
  | @longLength discarded len rest _ _ long _ ih =>
    rintro (_ | turns) h
    · exact absurd h (by simp)
    · simp only [search, candidate_long rest long, Receiver.resume, Receiver.failure]
      rw [List.tail_cons, ih turns (Nat.le_of_succ_le_succ h)]
  | @wrongCheck discarded len kind x y payload rest _ _ length small wrong _ ih =>
    rintro (_ | turns) h
    · exact absurd h (by simp)
    · simp only [search, candidate_complete (kind := kind) (rest := rest) length small, if_neg wrong,
        Receiver.resume, Receiver.failure]
      rw [List.tail_cons, ih turns (Nat.le_of_succ_le_succ h)]
  | @frame discarded kind payload rest _ _ small _ ih =>
    have length : payload.length = (BitVec.ofNat 8 payload.length).toNat := by
      rw [BitVec.toNat_ofNat]
      omega
    have bytes : ∃ x y : Byte,
        [x, y] = checkBytes (frameCheck (BitVec.ofNat 8 payload.length :: kind :: payload)) ∧
        Frame.bytes ⟨kind, payload⟩ ++ rest =
          0xC3 :: BitVec.ofNat 8 payload.length :: kind :: (payload ++ x :: y :: rest) :=
      ⟨_, _, rfl, by simp [Frame.bytes, Frame.body, checkBytes, syncByte]⟩
    obtain ⟨x, y, check, bytes⟩ := bytes
    rw [bytes]
    rintro (_ | turns) h
    · exact absurd h (by simp)
    · have behind : ((0xC3 : Byte) :: BitVec.ofNat 8 payload.length :: kind ::
          (payload ++ x :: y :: rest)).drop (payload.length + 5) = rest := by
        have split : (0xC3 : Byte) :: BitVec.ofNat 8 payload.length :: kind ::
            (payload ++ x :: y :: rest) =
            ((0xC3 : Byte) :: BitVec.ofNat 8 payload.length :: kind :: (payload ++ [x, y])) ++ rest := by
          simp
        rw [split]
        exact List.drop_left' (by simp)
      have judged := candidate_complete (kind := kind) (x := x) (y := y) (rest := rest) length (by omega)
      rw [if_pos check] at judged
      simp only [search, judged, behind]
      rw [ih turns (by simp only [List.length_cons, List.length_append] at h ⊢; omega)]

/-- Bytes without a SYNC are passed over (R172). -/
theorem Receiver.Searched.pass {p : Port} {r : Receiver} {found : List Instr} {discarded : Nat}
    {rest : List Byte} : ∀ bytes : List Byte, 0xC3 ∉ bytes →
    Receiver.Searched p ⟨rest, discarded - bytes.length⟩ r found →
    Receiver.Searched p ⟨bytes ++ rest, discarded⟩ r found := by
  intro bytes
  induction bytes generalizing discarded with
  | nil => exact fun _ h => h
  | cons b bytes ih =>
    intro none h
    obtain ⟨other, none⟩ := not_or.mp (mt List.mem_cons.mpr none)
    refine .passes (Ne.symm other) (ih none ?_)
    rw [Nat.sub_sub, Nat.add_comm]
    exact h

/-- The commands that arrive with one byte, and what the receiver keeps, are what the rules say. -/
theorem State.receiveByte_eq {s : State} {p : Port} {b : Byte} {r : Receiver} {found : List Instr}
    (h : Receiver.Searched p ⟨(s.port p).receiver.bytes ++ [b], (s.port p).receiver.discarded⟩ r found) :
    s.receiveByte p b =
      { s.modifyPort p (fun c => { c with receiver := r }) with pending := s.pending ++ found } := by
  unfold State.receiveByte Receiver.take
  rw [h.search_eq _ (by simp)]

/-- One byte more of a candidate that is not complete yet is held, and brings no command (R172). -/
theorem State.receiveByte_held {s : State} {p : Port} {held : List Byte} {b : Byte}
    (now : (s.port p).receiver = ⟨held, 0⟩)
    (h : Receiver.Searched p ⟨held ++ [b], 0⟩ ⟨held ++ [b], 0⟩ []) :
    s.receiveByte p b = s.modifyPort p fun c => { c with receiver := ⟨held ++ [b], 0⟩ } := by
  rw [State.receiveByte_eq (r := ⟨held ++ [b], 0⟩) (found := []) (by rw [now]; exact h), List.append_nil]
  rfl

/-- The bytes of a candidate that is not complete yet are held, and bring no command (R172). -/
theorem State.receiveBytes_held (p : Port) {len : Byte} (small : len.toNat ≤ 240) :
    ∀ (more held : List Byte) (s : State), (s.port p).receiver = ⟨0xC3 :: len :: held, 0⟩ →
    held.length + more.length < len.toNat + 3 →
    s.receiveBytes p more =
      s.modifyPort p fun c => { c with receiver := ⟨0xC3 :: len :: (held ++ more), 0⟩ } := by
  intro more
  induction more with
  | nil =>
    intro held s now _
    rw [List.append_nil]
    exact (State.modifyPort_id s p _ (by rw [← now])).symm
  | cons b more ih =>
    intro held s now short
    rw [List.length_cons] at short
    have one := State.receiveByte_held (held := 0xC3 :: len :: held) (b := b) now
      (.awaitsBytes 0 small
        (by rw [List.append_eq, List.length_append, List.length_singleton]; omega))
    show (s.receiveByte p b).receiveBytes p more = _
    rw [one, ih (held ++ [b]) _ (by rw [State.modifyPort_port_self]; rfl)
      (by rw [List.length_append, List.length_singleton]; omega), State.modifyPort_modifyPort,
      List.append_assoc]
    rfl

/-- A complete candidate that a hunting receiver takes is searched with its last byte (R172, R173). -/
theorem State.receiveBytes_candidate {s : State} {p : Port} {len kind x y : Byte} {payload : List Byte}
    {r : Receiver} {found : List Instr} (hunting : (s.port p).receiver = ⟨[], 0⟩)
    (length : payload.length = len.toNat) (small : len.toNat ≤ 240)
    (h : Receiver.Searched p ⟨0xC3 :: len :: kind :: (payload ++ [x, y]), 0⟩ r found) :
    s.receiveBytes p (0xC3 :: len :: kind :: (payload ++ [x, y])) =
      { s.modifyPort p (fun c => { c with receiver := r }) with pending := s.pending ++ found } := by
  have split : ((0xC3 : Byte) :: len :: kind :: (payload ++ [x, y])) =
      0xC3 :: len :: ((kind :: (payload ++ [x])) ++ [y]) := by simp
  rw [split] at h ⊢
  have first := State.receiveByte_held (b := 0xC3) hunting (.awaitsLength 0)
  have second := State.receiveByte_held (s := s.receiveByte p 0xC3) (p := p) (held := [0xC3]) (b := len)
    (by rw [first, State.modifyPort_port_self]; rfl) (.awaitsBytes 0 small (by simp))
  have third := State.receiveBytes_held p small (kind :: (payload ++ [x])) []
    ((s.receiveByte p 0xC3).receiveByte p len)
    (by rw [second, State.modifyPort_port_self]; rfl)
    (by simp only [List.length_cons, List.length_append, List.length_nil]; omega)
  show ((s.receiveByte p 0xC3).receiveByte p len).receiveBytes p ((kind :: (payload ++ [x])) ++ [y]) = _
  have whole : ∀ (u : State) (l : List Byte), u.receiveBytes p (l ++ [y]) =
      (u.receiveBytes p l).receiveByte p y := fun u l => List.foldl_append
  rw [whole, third, second, first, State.modifyPort_modifyPort, State.modifyPort_modifyPort]
  refine (State.receiveByte_eq (r := r) (found := found)
    (by rw [State.modifyPort_port_self]; exact h)).trans ?_
  rw [State.modifyPort_modifyPort]
  rfl

/-! ### The arrival of a frame -/

/-- The arrival of a frame is as R171, R131 and R138 state it. -/
theorem State.frameArrives_spec (p : Port) (s : State) : s.FrameArrived p (s.frameArrives p) := by
  let linked := s.modifyPort p fun c => { c with link := .up, badChecks := 0 }
  have fence : (linked.port p).fenced = (s.port p).fenced := by
    rw [State.modifyPort_port_self]
  have presence : (linked.port p).presence = (s.port p).presence := by
    rw [State.modifyPort_port_self]
  have unfenced : (s.port p).fenced = false → s.frameArrives p = linked.becomePresent p := fun free => by
    show linked.validFramePresence p = _
    unfold State.validFramePresence
    rw [fence, free]
    rfl
  constructor
  · intro fenced
    show linked.validFramePresence p = _
    unfold State.validFramePresence
    rw [fence, fenced]
    rfl
  · intro free late
    rw [unfenced free]
    unfold State.becomePresent
    rw [presence, if_pos late, State.modifyPort_modifyPort]
    exact State.returnEffects_spec p _
  · intro free other
    rw [unfenced free]
    unfold State.becomePresent
    rw [presence, if_neg other, State.modifyPort_modifyPort]
    rfl

/-- The clocks after the effects of a return from LATE. -/
theorem State.returnEffects_clocks (p : Port) (s : State) :
    (s.returnEffects p).tickCount = s.tickCount ∧ (s.returnEffects p).raceClock = s.raceClock := by
  unfold State.returnEffects
  split
  · split <;> exact ⟨rfl, rfl⟩
  · split
    · obtain ⟨_, _, only⟩ := s.holdTest_only
      rw [only.rest]
      exact ⟨rfl, rfl⟩
    · exact ⟨rfl, rfl⟩

/-- The arrival of a frame leaves the clocks, and on its port all but the link, the count, the presence
with its timer, and the notices. -/
theorem State.frameArrives_own (p : Port) (s : State) :
    ((s.frameArrives p).tickCount = s.tickCount ∧ (s.frameArrives p).raceClock = s.raceClock) ∧
    ∃ (presence : Presence) (silence : SilenceTimer), PortState.SameButNotices
      { s.port p with link := .up, badChecks := 0, presence := presence, silence := silence }
      ((s.frameArrives p).port p) := by
  have arrived := State.frameArrives_spec p s
  cases fence : (s.port p).fenced with
  | true =>
    rw [arrived.fenced fence, State.modifyPort_port_self]
    exact ⟨⟨rfl, rfl⟩, _, _, rfl⟩
  | false =>
    by_cases late : (s.port p).presence = .late
    · have returned : s.frameArrives p = (s.modifyPort p fun c =>
          { c with link := .up, badChecks := 0, presence := .present, silence := .first 250 }
          ).returnEffects p := by
        have free : ((s.modifyPort p fun c => { c with link := .up, badChecks := 0 }).port p).fenced =
            false := by rw [State.modifyPort_port_self]; exact fence
        have away : ((s.modifyPort p fun c => { c with link := .up, badChecks := 0 }).port p).presence =
            .late := by rw [State.modifyPort_port_self]; exact late
        unfold State.frameArrives State.validFramePresence State.becomePresent
        rw [free, away, State.modifyPort_modifyPort]
        rfl
      rw [returned]
      refine ⟨State.returnEffects_clocks p _, .present, .first 250, ?_⟩
      have own := State.returnEffects_ports (s.modifyPort p fun c =>
        { c with link := .up, badChecks := 0, presence := .present, silence := .first 250 }) p p
      rw [State.modifyPort_port_self] at own
      exact own
    · rw [arrived.heard fence late, State.modifyPort_port_self]
      exact ⟨⟨rfl, rfl⟩, _, _, rfl⟩

/-- A major error leaves all of its port but the record, the fence, the presence with its timer, and the
notices (R140 to R143). -/
theorem State.majorError_own (p : Port) (kind : ErrorKind) (requestKind : Option Byte) (s : State) :
    (s.majorError p kind requestKind).port p =
      { s.port p with
        presence := ((s.majorError p kind requestKind).port p).presence
        silence := ((s.majorError p kind requestKind).port p).silence
        errorRecord := ((s.majorError p kind requestKind).port p).errorRecord
        fenced := ((s.majorError p kind requestKind).port p).fenced
        noticeQueue := ((s.majorError p kind requestKind).port p).noticeQueue
        overflow := ((s.majorError p kind requestKind).port p).overflow } := by
  have told := (State.notifyOwn_only p (.error kind) (s.modifyPort p fun c =>
    { c with errorRecord := some ⟨kind, requestKind, s.raceClock, false⟩ })).ports p
  rw [State.modifyPort_port_self] at told
  have late := State.lateEffects_ports ((s.modifyPort p fun c => { c with fenced := true }).modifyPort p
    fun c => { c with presence := .late, silence := .second secondStageLength }) p p .fenced
  rw [State.modifyPort_port_self, State.modifyPort_port_self] at late
  unfold State.majorError
  split
  · rw [told]
  · split
    · split
      · rfl
      · unfold State.fence State.goLate
        split
        · rw [late]
        · rw [late]
        · rw [State.modifyPort_port_self]
        · rw [State.modifyPort_port_self]
    · rw [State.modifyPort_port_self]

end Sys2Proof.Machine
end

