-- ==== Sys2Proof/Laws/Reports.lean ====
section
/-! SUPPORT. What the full application of a forward REPORT does, from its delta to its notices, in the
terms of Safety. -/
namespace Sys2Proof.Machine

/-! ### The delta (R72) -/

/-- A forward delta held to an allowance of at least 1 is the lesser of the two. -/
theorem limitDelta_forward {allowance : Nat} {delta : Int} (ahead : 0 < delta) :
    limitDelta allowance delta = (min delta.natAbs allowance : Nat) := by
  unfold limitDelta
  split
  · rw [if_neg (by omega)]
    omega
  · omega

/-- The allowance of a car with a rate limit is at least 1 (R71, R72). -/
theorem Car.allowance_pos {c : Car} (now : Nat) (rate : 1 ≤ c.rateLimit) : 1 ≤ c.allowance now := by
  unfold Car.allowance Car.elapsed
  exact Nat.one_le_iff_ne_zero.mpr (Nat.mul_ne_zero (by omega) (by omega))

/-! ### The pose (R148) -/

/-- A car with the pose that a request carries, if any. -/
def Car.posed (r : Request) (c : Car) : Car :=
  { c with pose := if r.payload.length = 16 then some ⟨r.payload.drop 4, r.arrival⟩ else c.pose }

/-- A change of a car that is there is the car it makes. -/
theorem State.modifyCar_const {s : State} {p : Port} {c : Car} (f : Car → Car) (h : s.car p = some c) :
    s.modifyCar p f = s.modifyCar p fun _ => f c := by
  have car : s.cars.get p = some c := h
  unfold State.modifyCar
  rw [car]
  rfl

/-- Two changes of one car. -/
theorem State.modifyCar_modifyCar (s : State) (p : Port) (f g : Car → Car) :
    (s.modifyCar p f).modifyCar p g = s.modifyCar p fun c => g (f c) := by
  have cars : (s.cars.set p ((s.cars.get p).map f)).set p
      (((s.cars.set p ((s.cars.get p).map f)).get p).map g) =
      s.cars.set p ((s.cars.get p).map fun c => g (f c)) := by
    refine Bank.ext_get fun q => ?_
    by_cases e : q = p
    · subst e
      simp
      rfl
    · rw [Bank.get_set_ne _ _ e, Bank.get_set_ne _ _ e, Bank.get_set_ne _ _ e]
  unfold State.modifyCar
  dsimp only
  rw [cars]

theorem State.storePose_spec (s : State) (p : Port) (r : Request) :
    s.storePose p r = s.modifyCar p (Car.posed r) := by
  unfold State.storePose reportPose
  by_cases h : r.payload.length = 16
  · rw [if_pos h]
    unfold Car.posed
    simp only [if_pos h]
  · rw [if_neg h]
    dsimp only
    unfold State.modifyCar
    have same : (s.cars.get p).map (Car.posed r) = s.cars.get p := by
      cases s.cars.get p with
      | none => rfl
      | some c => simp [Car.posed, h]
    rw [same, Bank.set_get]

/-! ### Forward reports (R75 to R82) -/

/-- A car after a forward report that crosses gates in order. -/
def Car.carried (course : Course) (laps now ahead : Nat) (cut : Bool) (gates : List Gate) (r : Request)
    (c : Car) : Car :=
  { c with
    standing := if (⟨laps + 1, 0⟩ : Gate) ∈ gates then .finished now else c.standing
    distance := min (c.distance + ahead) (course.finish laps), reverseRun := 0
    status := ⟨false, cut, false, false⟩
    sticky := { c.sticky with rateSeen := c.sticky.rateSeen || cut }
    lastReport := now, distanceChange := now
    floorGate := gates.getLastD c.floorGate
    nextGate := course.next laps (gates.getLastD c.floorGate)
    laps := c.laps ++ lapTimes now c.lastLine gates
    lastLine := lastLineAfter now c.lastLine gates
    pose := if r.payload.length = 16 then some ⟨r.payload.drop 4, r.arrival⟩ else c.pose }

/-- What a forward report tells a port before the notices of its move: the end of WRONG_WAY and the gates
crossed on the own port, and the finish to the race ports (R75, R80, R81). -/
def forwardNotices (course : Course) (laps now : Nat) (gates : List Gate) (p : Port) (c : Car)
    (place : Nat) (q : Port) (isRace : Bool) : List Notice :=
  (if q = p then noticeIf c.status.wrongWay (.wrongWay false c.reverseRun) ++
      gateNotices course now c.lastLine gates else []) ++
    noticeIf (isRace && decide ((⟨laps + 1, 0⟩ : Gate) ∈ gates)) (.finish p place now)

/-- The full application of a forward report before its end tests. -/
structure State.Forward (p : Port) (course : Course) (ahead : Nat) (cut : Bool) (gates : List Gate)
    (r : Request) (c : Car) (s u : State) : Prop where
  rest : u = { s with
    cars := u.cars, ports := u.ports
    finishList := s.finishList ++
      if (⟨s.race.settings.laps + 1, 0⟩ : Gate) ∈ gates then [⟨p, s.raceClock⟩] else []
    activeGroup := u.activeGroup }
  car : u.car p = some (c.carried course s.race.settings.laps s.raceClock ahead cut gates r)
  others : s.OtherCars p u
  group : u.activeGroup =
    if (⟨s.race.settings.laps + 1, 0⟩ : Gate) ∈ gates then s.activeGroup.filter (fun q => q ≠ p)
    else u.placeByDistance p (s.activeGroup.filter (fun q => q ≠ p))
  same : ∀ q : Port, (s.port q).SameButNotices (u.port q)
  ports : u.runningOrder.Nodup → ∀ q : Port, u.port q = (s.port q).offerAll
    (forwardNotices course s.race.settings.laps s.raceClock gates p c (s.finishList.length + 1) q
        (s.isRacePort q) ++
      moveNotices (s.isRacePort q) q s.runningOrder u.runningOrder)

/-- A forward report crosses gates along the chain, moves the car, and is followed by the end tests where it
finishes (R75, R78, R82, R84). -/
theorem State.fullApplication_forward {s : State} {p : Port} {r : Request} {c : Car} {course : Course}
    {ahead : Nat} (sound : course.Sound) (car : s.car p = some c) (loaded : s.course = some course)
    (bounds : c.DistanceSound course s.race.settings.laps) (racing : c.standing = .racing)
    (forward : 0 < reportDelta r.payload) (rate : 1 ≤ c.rateLimit)
    (held : ahead = min (reportDelta r.payload).natAbs (c.allowance s.raceClock)) :
    ∃ (u : State) (gates : List Gate),
      s.fullApplication p r =
        (if (⟨s.race.settings.laps + 1, 0⟩ : Gate) ∈ gates then u.endTests true else u) ∧
      s.Forward p course ahead (decide (ahead < (reportDelta r.payload).natAbs)) gates r c u ∧
      c.Crossed course s.race.settings.laps s.raceClock gates
        (c.carried course s.race.settings.laps s.raceClock ahead
          (decide (ahead < (reportDelta r.payload).natAbs)) gates r) ∧
      course.OnChain s.race.settings.laps (gates.getLastD c.floorGate) := by
  have allowed := Car.allowance_pos s.raceClock rate
  have cut : decide (c.allowance s.raceClock < (reportDelta r.payload).natAbs) =
      decide (ahead < (reportDelta r.payload).natAbs) := by
    rw [decide_eq_decide, held]
    omega
  have short : c.distance ≠ course.finish s.race.settings.laps := fun e => by
    have := bounds.finished.mpr e
    rw [racing] at this
    exact absurd this (by decide)
  have below : c.distance < course.finish s.race.settings.laps :=
    Nat.lt_of_le_of_ne bounds.finish short
  let c' : Car := (c.markRate (decide (ahead < (reportDelta r.payload).natAbs))).forward
    (course.finish s.race.settings.laps) (ahead : Int)
  -- the movement
  have moved : ∃ m : State, (s.modifyCar p fun _ => c').Told
      (fun q => if q = p then noticeIf c.status.wrongWay (.wrongWay false c.reverseRun) else []) m ∧
      s.applyDelta p c course s.raceClock (reportDelta r.payload) =
        m.crossGates p s.raceClock course (course.chainLength s.race.settings.laps) := by
    unfold State.applyDelta
    dsimp only
    rw [cut, limitDelta_forward forward, ← held]
    rw [if_neg (by omega), if_pos (by omega)]
    have rated : (s.modifyCar p (Car.markRate (decide (ahead < (reportDelta r.payload).natAbs)))).car p =
        some (c.markRate (decide (ahead < (reportDelta r.payload).natAbs))) := by
      rw [State.modifyCar_car_self, car]
      rfl
    unfold State.travelForward
    rw [rated]
    have base : (s.modifyCar p (Car.markRate
        (decide (ahead < (reportDelta r.payload).natAbs)))).modifyCar p
          (Car.forward (course.finish s.race.settings.laps) (ahead : Int)) =
        s.modifyCar p fun _ => c' := by
      rw [State.modifyCar_modifyCar, State.modifyCar_const _ car]
    have same : (s.modifyCar p (Car.markRate
        (decide (ahead < (reportDelta r.payload).natAbs)))).race = s.race := rfl
    dsimp only
    rw [same, base]
    have wrong : (c.markRate (decide (ahead < (reportDelta r.payload).natAbs))).status.wrongWay =
        c.status.wrongWay := rfl
    rw [wrong]
    refine ⟨_, ?_, rfl⟩
    cases way : c.status.wrongWay with
    | false =>
      rw [if_neg (by decide)]
      refine (State.Told.refl _).congr fun q => ?_
      simp [noticeIf]
    | true =>
      rw [if_pos rfl]
      refine (State.notifyOwn_told p _ _).congr fun q => ?_
      by_cases e : q = p <;> simp [noticeIf, e]
      rfl
  obtain ⟨m, told, applied⟩ := moved
  -- the crossings
  have here : m.car p = some c' := by rw [told.car, State.modifyCar_car_self, car]; rfl
  have race : m.race = s.race := told.race
  obtain ⟨gates, crossing, chain, reached, on, beyond⟩ := State.crossGates_spec (now := s.raceClock)
    sound (course.chainLength s.race.settings.laps) here
    (by rw [race]; exact bounds.gate) (by rw [race]; exact bounds.next)
    (by rw [race]; unfold Course.chainLength; omega)
  rw [← applied] at crossing
  rw [race] at chain on beyond
  clear applied
  generalize applied : s.applyDelta p c course s.raceClock (reportDelta r.payload) = t at crossing
  -- the car as it stands after them
  have own := crossing.car
  rw [race] at own
  have fin : (c'.cross course s.race.settings.laps s.raceClock gates).standing.isFinished =
      decide ((⟨s.race.settings.laps + 1, 0⟩ : Gate) ∈ gates) := by
    have still : c'.standing = .racing := racing
    unfold Car.cross
    by_cases last : (⟨s.race.settings.laps + 1, 0⟩ : Gate) ∈ gates
    · simp [last, Standing.isFinished]
    · simp [last, still, Standing.isFinished]
  have gone : (c'.cross course s.race.settings.laps s.raceClock gates).distance ≠ c.distance := by
    show min (c.distance + (ahead : Int).toNat) (course.finish s.race.settings.laps) ≠ c.distance
    omega
  -- the booking
  let book : Car → Car := fun x => { x with
    lastReport := s.raceClock
    distanceChange := if x.distance = c.distance then x.distanceChange else s.raceClock }
  let booked := t.modifyCar p book
  let w : State :=
    if (⟨s.race.settings.laps + 1, 0⟩ : Gate) ∈ gates then booked.finishMove p else booked.reinsert p
  have placed : t.bookReport p s.raceClock c.distance s.runningOrder = w.notifyMove s.runningOrder := by
    unfold State.bookReport w
    rw [own]
    dsimp only
    rw [fin]
    by_cases last : (⟨s.race.settings.laps + 1, 0⟩ : Gate) ∈ gates
    · simp only [last, decide_true, if_true]
      rfl
    · simp only [last, decide_false, Bool.false_eq_true, if_false, if_neg gone]
      rfl
  have rest : t = { s with cars := t.cars, ports := t.ports, finishList := s.finishList ++
      if (⟨s.race.settings.laps + 1, 0⟩ : Gate) ∈ gates then [⟨p, s.raceClock⟩] else [] } := by
    have list : m.finishList = s.finishList := by rw [told.rest]; rfl
    have all := crossing.rest
    rw [race, list] at all
    rw [all, told.rest]
    rfl
  have wrest : w = { t with cars := booked.cars, activeGroup := w.activeGroup } := by
    unfold w
    split <;> rfl
  have wcar : ∀ q, w.car q = booked.car q := fun q => by
    unfold State.car
    rw [wrest]
  have wport : ∀ q, w.port q = t.port q := fun q => by
    unfold State.port
    rw [wrest]
  have wgroup : w.activeGroup =
      if (⟨s.race.settings.laps + 1, 0⟩ : Gate) ∈ gates then s.activeGroup.filter (fun q => q ≠ p)
      else w.placeByDistance p (s.activeGroup.filter (fun q => q ≠ p)) := by
    have group : booked.activeGroup = s.activeGroup := by
      show t.activeGroup = s.activeGroup
      rw [rest]
    have distance : ∀ q, w.distance q = booked.distance q := fun q => by
      unfold State.distance
      rw [wcar]
    rw [State.placeByDistance_congr distance]
    unfold w
    split
    · show booked.activeGroup.filter _ = _
      rw [group]
    · show booked.placeByDistance p (booked.activeGroup.filter _) = _
      rw [group]
  clear_value w
  have final : ((book (c'.cross course s.race.settings.laps s.raceClock gates)).posed r) =
      c.carried course s.race.settings.laps s.raceClock ahead
        (decide (ahead < (reportDelta r.payload).natAbs)) gates r := by
    unfold Car.posed book
    rw [if_neg gone]
    rfl
  have only := State.notifyMove_only s.runningOrder w
  have order := State.notifyMove_told s.runningOrder w
  generalize w.notifyMove s.runningOrder = n at only order placed
  have ncar : ∀ q, n.car q = booked.car q := fun q => by
    rw [← wcar]
    unfold State.car
    rw [only.rest]
  have mine : n.car p = some (book (c'.cross course s.race.settings.laps s.raceClock gates)) := by
    rw [ncar, State.modifyCar_car_self, own]
    rfl
  have isRace : ∀ q, w.isRacePort q = s.isRacePort q := fun q => by
    unfold State.isRacePort
    by_cases e : q = p
    · rw [e, wcar, ← ncar, mine, car]
      rfl
    · rw [wcar, State.modifyCar_car_ne _ _ e, crossing.others q e, told.car,
        State.modifyCar_car_ne _ _ e]
  refine ⟨n.modifyCar p (Car.posed r), gates, ?_, ?_, ?_, on⟩
  · unfold State.fullApplication
    rw [car, loaded]
    dsimp only
    rw [applied, placed, State.storePose_spec]
    have state : (n.modifyCar p (Car.posed r)).carState p = .finished ↔
        (⟨s.race.settings.laps + 1, 0⟩ : Gate) ∈ gates := by
      rw [State.carState_of (c := c.carried course s.race.settings.laps s.raceClock ahead
        (decide (ahead < (reportDelta r.payload).natAbs)) gates r)
        (by rw [State.modifyCar_car_self, mine, ← final]; rfl)]
      unfold Car.carried
      by_cases last : (⟨s.race.settings.laps + 1, 0⟩ : Gate) ∈ gates
      · simp [last, Standing.state]
      · simp [last, racing, Standing.state]
    by_cases last : (⟨s.race.settings.laps + 1, 0⟩ : Gate) ∈ gates
    · rw [if_pos (state.mpr last), if_pos last]
    · rw [if_neg fun h => last (state.mp h), if_neg last]
  · have same : n = { s with cars := n.cars, ports := n.ports, activeGroup := n.activeGroup
                             finishList := n.finishList } ∧
        n.finishList = s.finishList ++
          (if (⟨s.race.settings.laps + 1, 0⟩ : Gate) ∈ gates then [⟨p, s.raceClock⟩] else []) ∧
        n.activeGroup = w.activeGroup ∧ n.runningOrder = w.runningOrder := by
      have all := only.rest
      rw [wrest, rest] at all
      refine ⟨?_, ?_, ?_, ?_⟩
      · rw [all]
      · rw [all]
      · rw [only.rest]
      · rw [only.rest]
        rfl
    obtain ⟨whole, list, group, running⟩ := same
    have distance : ∀ q, (n.modifyCar p (Car.posed r)).distance q = w.distance q := fun q => by
      rw [State.modifyCar_distance n p q (f := Car.posed r) fun _ => rfl]
      unfold State.distance
      rw [ncar, wcar]
    refine ⟨?_, ?_, fun q other => ?_, ?_, fun q => ?_, fun nodup q => ?_⟩
    · rw [← list]
      exact congrArg (fun x : State => x.modifyCar p (Car.posed r)) whole
    · rw [State.modifyCar_car_self, mine, ← final]
      rfl
    · rw [State.modifyCar_car_ne _ _ other, ncar, State.modifyCar_car_ne _ _ other,
        crossing.others q other, told.car, State.modifyCar_car_ne _ _ other]
    · rw [State.placeByDistance_congr distance, ← wgroup]
      exact group
    · have first := only.ports q
      rw [wport, crossing.ports, told.ports, ← PortState.offerAll_append] at first
      exact (PortState.offerAll_same _ _).trans first
    · have after := (order (by rw [← running]; exact nodup)).ports q
      show n.port q = _
      rw [after, wport, crossing.ports, told.ports, isRace, ← PortState.offerAll_append,
        ← PortState.offerAll_append]
      have mRace : m.isRacePort q = s.isRacePort q :=
        (told.isRacePort q).trans (State.modifyCar_isRacePort s p q _)
      have list' : m.finishList = s.finishList := by rw [told.rest]; rfl
      rw [race, mRace, list']
      have order' : (n.modifyCar p (Car.posed r)).runningOrder = w.runningOrder := running
      rw [order']
      congr 1
      unfold forwardNotices crossingNotices
      by_cases e : q = p
      · simp only [if_pos e, List.append_assoc]
        rfl
      · simp only [if_neg e, List.nil_append]
  · exact {
      chain := chain
      reached := reached
      floorGate := rfl
      nextGate := rfl
      beyond := beyond
      lapList := rfl
      lastLine := rfl }

end Sys2Proof.Machine
end

