-- ==== Sys2Proof/Tests/Slice0.lean ====
section
/-! SUPPORT. Tests: the checks of WellFormed, the worked values of the spec, one small step for each
command, and for each statement that has hypotheses a state and operands that meet them together. -/
namespace Sys2Proof.Tests
open Sys2Proof.Machine

set_option Elab.async false

/-! ### Small states -/

/-- The state after a command. -/
def after (c : Instr) (s : State) : State :=
  match exec c s with
  | .next t => t
  | .fault f => nomatch f
  | .refused _ => s

/-- The payload of the worked example of 11: 10,000 tu and the line alone. -/
def ovalBytes : List Byte := [0x10, 0x27, 0x00, 0x00, 0x01, 0x00, 0x00, 0x00, 0x00, 0x01]

/-- The course it defines. -/
def oval : Course := ⟨10000, [⟨0, .line⟩], 0x9EEFE5C7⟩

/-- A port whose cabinet has been heard. -/
def up : PortState :=
  { PortState.reset with link := .up, presence := .present, silence := .first 250 }

/-- Ports 0 and 1 have been heard, and no race is open. -/
def idle : State := { State.reset with ports := (State.reset.ports.set 0 up).set 1 up }

/-- One request waits on a port. -/
def asks (p : Port) (k : RequestKind) (payload : List Byte) (s : State) : State :=
  s.modifyPort p fun c => { c with requestQueue := [.request ⟨k, payload, 0⟩] }

/-- A race of the cars of ports 0 and 1. -/
def race (x : RaceRecord) (a b : Car) : State :=
  { idle with race := x, course := some oval, entryList := [0, 1]
              cars := ((Bank.fill none).set 0 (some a)).set 1 (some b) }

/-- A race record of race 1 in a phase. -/
def record (phase : Phase) : RaceRecord := { RaceRecord.reset with phase := phase, number := 1 }

/-- A car as it entered, in another standing. -/
def entryAs (x : Standing) (position : Nat) : Car := { Car.entry position with standing := x }

/-- Both cars are entered. -/
def forming : State :=
  race { record .forming with opener := some 0, entryWindow := some 0 } (Car.entry 1) (Car.entry 2)

/-- The opener's car alone is entered, with no course. -/
def formingAlone : State :=
  { forming with course := none, entryList := [0], cars := (Bank.fill none).set 0 (some (Car.entry 1)) }

/-- On the grid, car 1 is READY. -/
def grid : State :=
  race { record .grid with gridWait := some 20000 } (Car.entry 1) (entryAs .ready 2)

/-- In the countdown. -/
def countdown : State :=
  race { record .countdown with countdown := some 100 } (entryAs .ready 1) (entryAs .ready 2)

/-- A car on the track of the oval. -/
def onTrack (position : Nat) : Car := { entryAs .racing position with nextGate := some ⟨2, 0⟩ }

/-- In GREEN, 100 ms after the start. -/
def green : State :=
  { race (record .green) (onTrack 1) (onTrack 2) with
    raceClock := 100, tickCount := 100, activeGroup := [0, 1] }

/-- In GREEN with port 0 silent for its first stage. -/
def coasting : State :=
  { green with
    cars := green.cars.set 0 (some { onTrack 1 with standing := .coasting })
    ports := green.ports.set 0 { up with presence := .late, silence := .second 0 } }

/-- In RESULTS, with both cars stopped. -/
def results : State :=
  let s := race { record .results with resultsHold := some 60000, resultsReason := some .closed }
    { onTrack 1 with standing := .stopped } { onTrack 2 with standing := .stopped }
  { s with raceClock := 100, activeGroup := [0, 1], resultsTable := some (s.buildResults .closed) }

/-! ### WellFormed -/

theorem test_payload_of_240_is_well_formed :
    (Instr.validFrame 0 0x09 (List.replicate 240 0)).wellFormed = true := by decide +kernel

theorem test_payload_of_241_is_ill_formed :
    (Instr.validFrame 0 0x09 (List.replicate 241 0)).wellFormed = false := by decide +kernel

/-! ### Worked values of the spec -/

/-- The note to R11. -/
theorem test_courseCheck_of_digits :
    courseCheck [0x31, 0x32, 0x33, 0x34, 0x35, 0x36, 0x37, 0x38, 0x39] = 0xCBF43926 := by decide +kernel

/-- The worked check value of 11. -/
theorem test_courseCheck_of_oval : courseCheck ovalBytes = 0x9EEFE5C7 := by decide +kernel

theorem test_course_of_oval : courseOf ovalBytes = some oval := by decide +kernel

/-- The first gate must be the line (R3). -/
theorem test_course_needs_the_line :
    courseOf [0x10, 0x27, 0x00, 0x00, 0x01, 0x00, 0x00, 0x00, 0x00, 0x02] = none := by decide +kernel

/-- The positions of the chain of Table 1.5: gate 2 of lap 2 stands at 16,000. -/
theorem test_position_of_a_gate :
    (⟨10000, [⟨0, .line⟩, ⟨2500, .sector⟩, ⟨6000, .plain⟩, ⟨8200, .sector⟩], 0⟩ : Course).position
      ⟨2, 2⟩ = 16000 := by decide +kernel

/-- A frame is SYNC, LEN, KIND, payload and CHECK, and comes back as it was sent (R172). -/
theorem test_frame_is_received :
    (idle.receiveBytes 0 (Frame.bytes ⟨0x0A, [0x0F]⟩)).pending = [.validFrame 0 0x0A [0x0F]] := by
  decide +kernel

/-- A LEN of 241 fails its candidate at once (R172). -/
theorem test_long_length_is_a_bad_length :
    (idle.receiveBytes 0 [0xC3, 0xF1]).pending = [.badLengthFrame 0] := by decide +kernel

/-! ### One step of each command -/

theorem test_openRace :
    (after (.openRace 0) (asks 0 .openRace [] idle)).race.phase = .forming ∧
    ((after (.openRace 0) (asks 0 .openRace [] idle)).port 0).responseQueue = [.openRace 1] := by
  decide +kernel

/-- Mask bit 0 selects the laps (R19). -/
theorem test_setRules :
    (after (.setRules 0) (asks 0 .setRules ([0x01, 0x00, 0x02] ++ List.replicate 35 0) forming)
      ).race.settings.values = [2, 3000, 30000, 20000, 20000, 600000, 5000, 2000, 60000] := by decide +kernel

/-- A window of 5,000 ms selected when 5,000 ms have passed expires at once, after the grant (R20). -/
theorem test_setRules_expires_a_passed_window :
    (after (.setRules 0) (asks 0 .setRules
      ([0x04, 0x00] ++ List.replicate 8 0 ++ [0x88, 0x13, 0x00, 0x00] ++ List.replicate 24 0)
      { forming with race := { forming.race with entryWindow := some 5000 } })).race.phase = .grid := by
  decide +kernel

theorem test_loadCourse :
    (after (.loadCourse 0) (asks 0 .loadCourse ovalBytes formingAlone)).course = some oval := by decide +kernel

/-- A cabinet entering the race of the worked example (11). -/
theorem test_enter :
    ((after (.enter 1) (asks 1 .enter [0xC7, 0xE5, 0xEF, 0x9E]
      { formingAlone with course := some oval })).port 1).responseQueue = [.enter 1 2] := by decide +kernel

/-- Mask bit 2 selects the rate limit: 150 tu per ms (R49). -/
theorem test_carSetup :
    ((after (.carSetup 0) (asks 0 .carSetup [0x04, 0, 0, 0, 0, 0, 0x96, 0x00] forming)).car 0).map
      Car.rateLimit = some 150 := by decide +kernel

theorem test_closeEntries :
    (after (.closeEntries 0) (asks 0 .closeEntries [] forming)).race.gridWait = some 20000 := by decide +kernel

theorem test_ready :
    (after (.ready 0) (asks 0 .ready [] grid)).race.phase = .countdown := by decide +kernel

theorem test_leave :
    (after (.leave 0) (asks 0 .leave [] forming)).entryList = [1] ∧
    (after (.leave 0) (asks 0 .leave [] forming)).race.opener = some 1 := by decide +kernel

/-- 3,000 tu forward in 100 ms at 200 tu per ms is not cut (R72). -/
theorem test_report_forward :
    (after (.report 1) (asks 1 .report [0xB8, 0x0B, 0x00, 0x00] green)).activeGroup = [1, 0] ∧
    ((after (.report 1) (asks 1 .report [0xB8, 0x0B, 0x00, 0x00] green)).car 1).map Car.distance =
      some 3000 := by decide +kernel

/-- A delta of -300 at the floor (R74). -/
theorem test_report_reverse :
    ((after (.report 1) (asks 1 .report [0xD4, 0xFE, 0xFF, 0xFF] green)).car 1).map
      (fun c => (c.distance, c.reverseRun, c.status.atFloor)) = some (0, 300, true) := by decide +kernel

theorem test_clearFlags :
    ((after (.clearFlags 0) (asks 0 .clearFlags [0x0F] green)).port 0).responseQueue =
      [.clearFlags ⟨false, false, false, false⟩] := by decide +kernel

theorem test_snapshot :
    ((after (.snapshot 0) (asks 0 .snapshot [] idle)).port 0).responseQueue =
      [.snapshot ⟨0, .idle, false, none, 0, []⟩] := by decide +kernel

theorem test_readLaps :
    ((after (.readLaps 0) (asks 0 .readLaps [0x01, 0x00] green)).port 0).responseQueue =
      [.readLaps 1 0 0 []] := by decide +kernel

theorem test_readResults :
    ((after (.readResults 0) (asks 0 .readResults [] green)).port 0).responseQueue =
      [.bare .readResults .wrongPhase] := by decide +kernel

/-- One vote of two is no majority (R126). -/
theorem test_abortVote :
    ((after (.abortVote 0) (asks 0 .abortVote [] green)).port 0).responseQueue =
      [.abortVote 1 2 .green] := by decide +kernel

theorem test_withdrawVote :
    ((after (.withdrawVote 0) (asks 0 .withdrawVote [] green)).port 0).responseQueue =
      [.withdrawVote 0 2] := by decide +kernel

theorem test_identify :
    ((after (.identify 0) (asks 0 .identify [] idle)).port 0).responseQueue =
      [.identify 0 0 .idle .empty .present false] := by decide +kernel

theorem test_nop :
    ((after (.nop 0) (asks 0 .nop [] idle)).port 0).responseQueue = [.bare .nop .ok] := by decide +kernel

theorem test_setPush :
    ((after (.setPush 0) (asks 0 .setPush [0x10, 0x00, 0x00, 0x00] green)).port 0).pushTimer =
      some 16 := by decide +kernel

theorem test_clearErrors :
    ((after (.clearErrors 0) (asks 0 .clearErrors [] coasting)).port 0).presence = .present ∧
    (after (.clearErrors 0) (asks 0 .clearErrors [] coasting)).carState 0 = .racing := by decide +kernel

theorem test_unknownFrameAnswer :
    ((after (.unknownFrameAnswer 0)
      (idle.modifyPort 0 fun c => { c with requestQueue := [.unknown 0x55 0] })).port 0).responseQueue =
      [.unknownFrame 0x55 .unknownKind] := by decide +kernel

theorem test_validFrame_brings_the_link_up :
    ((after (.validFrame 2 0x01 []) idle).port 2).link = .up ∧
    ((after (.validFrame 2 0x01 []) idle).port 2).requestQueue =
      [.request ⟨.openRace, [], 0⟩] := by decide +kernel

/-- A port-local request that arrives at the head is answered on its arrival (R176). -/
theorem test_validFrame_answers_nop :
    ((after (.validFrame 0 0x11 []) idle).port 0).responseQueue = [.bare .nop .ok] := by decide +kernel

theorem test_badCheckFrame :
    ((after (.badCheckFrame 0) idle).port 0).badChecks = 1 ∧
    ((after (.badCheckFrame 0) idle).port 0).noticeQueue = [.error .badCheck] := by decide +kernel

/-- The eighth in a row takes the link DOWN, and the candidate being received goes with it (R171, R179). -/
theorem test_badCheckFrame_takes_the_link_down :
    (after (.badCheckFrame 0) (idle.modifyPort 0 fun c =>
      { c with badChecks := 7, receiver := ⟨[0xC3], 0⟩ })).port 0 =
      { (idle.port 0) with link := .down, presence := .late, silence := .second 2750
                           errorRecord := some ⟨.badCheck, none, 0, false⟩ } := by decide +kernel

theorem test_badLengthFrame :
    ((after (.badLengthFrame 0) idle).port 0).badChecks = 0 ∧
    ((after (.badLengthFrame 0) idle).port 0).noticeQueue = [.error .badLength] := by decide +kernel

theorem test_resynchronisingCandidateDiscard :
    after (.resynchronisingCandidateDiscard 0) idle = idle := by decide +kernel

theorem test_lossOfSignal :
    ((after (.lossOfSignal 0) green).port 0).presence = .late ∧
    (after (.lossOfSignal 0) green).carState 0 = .coasting := by decide +kernel

theorem test_hardwareReset : after .hardwareReset green = State.reset := by decide +kernel

theorem test_entryWindowExpiry :
    (after .entryWindowExpiry { forming with
      race := { forming.race with entryWindow := some 30000 } }).race.phase = .grid := by decide +kernel

theorem test_gridWaitExpiry :
    (after .gridWaitExpiry { grid with race := { grid.race with gridWait := some 0 } }).entryList =
      [1] := by decide +kernel

theorem test_countdownExpiry :
    (after .countdownExpiry { countdown with
      race := { countdown.race with countdown := some 0 } }).activeGroup = [0, 1] := by decide +kernel

theorem test_closingWindowExpiry :
    (after .closingWindowExpiry { green with
      race := { record .finishing with closingWindow := some 0 } }).race.resultsReason =
      some .closed := by decide +kernel

/-- Below the limit there is no such event. -/
theorem test_raceLimit : after .raceLimit green = green := by decide +kernel

theorem test_raceLimit_at_the_limit :
    (after .raceLimit { green with raceClock := 599999 }).race.resultsReason = some .limit ∧
    (after .raceLimit { green with raceClock := 599999 }).raceClock = 600000 := by decide +kernel

theorem test_resultsHoldExpiry :
    (after .resultsHoldExpiry { results with
      race := { results.race with resultsHold := some 0 } }).race.phase = .idle := by decide +kernel

theorem test_voteExpiry :
    (after (.voteExpiry 0) { green with
      raceClock := 10100
      race := { green.race with votes := green.race.votes.set 0 (some 100) } }).voteCount = 0 := by
  decide +kernel

theorem test_silenceFirstStageExpiry :
    (after (.silenceFirstStageExpiry 0)
      (green.modifyPort 0 fun c => { c with silence := .first 0 })).carState 0 = .coasting := by decide +kernel

theorem test_silenceSecondStageExpiry :
    (after (.silenceSecondStageExpiry 0) coasting).retiredGroup = [0] := by decide +kernel

theorem test_pushTimerExpiry :
    ((after (.pushTimerExpiry 0) (green.modifyPort 0 fun c =>
      { c with pushInterval := 16, pushTimer := some 0 })).port 0).pushTimer = some 16 := by decide +kernel

theorem test_transmitTake :
    ((after (.transmitTake 0) (idle.modifyPort 0 fun c =>
      { c with responseQueue := [.bare .nop .ok] })).port 0).sending = some ⟨0x91, [0x00]⟩ := by decide +kernel

theorem test_tick : (after .tick green).raceClock = 101 ∧ (after .tick green).tickCount = 101 := by
  decide +kernel

/-- No word spells a command, so a word leaves the waiting commands as they are. -/
theorem test_withFetchWord : idle.withFetchWord 8 0 = idle := by decide +kernel

/-! ### The small states are sound -/

/-- What holds of every car of a state, from a check of each slot. -/
theorem forall_cars {s : State} {Q : Port → Car → Prop} [∀ p c, Decidable (Q p c)]
    (h : ∀ p : Port, ((s.car p).all fun c => decide (Q p c)) = true) :
    ∀ p : Port, ∀ c : Car, s.car p = some c → Q p c := by
  intro p c hc
  have := h p
  rw [hc] at this
  exact of_decide_eq_true this

/-- What the ports hold does not bear on the race record. -/
theorem raceSound_ports {s : State} (ports : Bank PortState) (h : s.RaceSound) :
    ({ s with ports := ports } : State).RaceSound := by
  constructor
  exacts [h.opener, h.openerEntered, h.standings, h.someCar, h.courseLocked, h.courseIdle, h.entryIdle,
    h.groupsBefore, h.hold, h.countdown, h.entryWindow, h.gridWait, h.closing, h.resultsHold, h.votes,
    h.released, h.reason, h.table, h.clock]

/-- What the ports hold does not bear on the running order. -/
theorem orderSound_ports {s : State} (ports : Bank PortState) (h : s.OrderSound) :
    ({ s with ports := ports } : State).OrderSound := by
  constructor
  exacts [h.nodup, h.complete, h.active, h.retired, h.finished, h.activeOrder, h.retiredOrder, h.times,
    h.entryPositions]

theorem idle_raceSound : idle.RaceSound := by
  constructor
  case standings => exact forall_cars (by decide +kernel)
  case votes => exact fun p h => absurd h (by revert p; decide +kernel)
  all_goals decide +kernel

theorem forming_raceSound : forming.RaceSound := by
  constructor
  case standings => exact forall_cars (by decide +kernel)
  case votes => exact fun p h => absurd h (by revert p; decide +kernel)
  all_goals decide +kernel

theorem grid_raceSound : grid.RaceSound := by
  constructor
  case standings => exact forall_cars (by decide +kernel)
  case votes => exact fun p h => absurd h (by revert p; decide +kernel)
  all_goals decide +kernel

theorem countdown_raceSound : countdown.RaceSound := by
  constructor
  case standings => exact forall_cars (by decide +kernel)
  case votes => exact fun p h => absurd h (by revert p; decide +kernel)
  all_goals decide +kernel

theorem green_raceSound : green.RaceSound := by
  constructor
  case standings => exact forall_cars (by decide +kernel)
  case votes => exact fun p h => absurd h (by revert p; decide +kernel)
  all_goals decide +kernel

theorem forming_orderSound : forming.OrderSound := by
  constructor
  case active => exact fun p h => absurd h (by revert p; decide +kernel)
  case finished => exact fun e h => absurd h List.not_mem_nil
  case activeOrder => exact List.Pairwise.nil
  case retiredOrder => exact List.Pairwise.nil
  case times => exact ⟨List.Pairwise.nil, fun e h => absurd h List.not_mem_nil⟩
  case entryPositions => exact forall_cars (by decide +kernel)
  all_goals decide +kernel

theorem green_orderSound : green.OrderSound := by
  constructor
  case active =>
    intro p h
    have : p = 0 ∨ p = 1 := by revert p; decide +kernel
    rcases this with rfl | rfl
    · exact ⟨onTrack 1, by decide +kernel, by decide +kernel⟩
    · exact ⟨onTrack 2, by decide +kernel, by decide +kernel⟩
  case finished => exact fun e h => absurd h List.not_mem_nil
  case activeOrder => exact (by decide +kernel : List.Pairwise (fun a b => b ≤ a) [0, 0])
  case retiredOrder => exact List.Pairwise.nil
  case times => exact ⟨List.Pairwise.nil, fun e h => absurd h List.not_mem_nil⟩
  case entryPositions => exact forall_cars (by decide +kernel)
  all_goals decide +kernel

/-- The cars on the track are within their bounds. -/
theorem onTrack_distanceSound (position : Nat) (h : position = 1 ∨ position = 2) :
    (onTrack position).DistanceSound oval 3 := by
  rcases h with rfl | rfl <;> constructor
  case inl.below | inr.below => exact fun g h => by cases h; decide +kernel
  all_goals decide +kernel

theorem green_distancesSound : green.DistancesSound where
  course := fun c h => by cases h; exact (by decide +kernel : validDefinition 10000 oval.gates = true)
  settings := (by decide +kernel : ∀ i < 9, (settingRange i).1 ≤ Settings.default.values.getD i 0 ∧
    Settings.default.values.getD i 0 ≤ (settingRange i).2)
  cars := by
    intro _ course hcourse p c hc
    cases hcourse
    have only : ∀ p : Port, (green.car p).isSome = true → p = 0 ∨ p = 1 := by decide +kernel
    rcases only p (by rw [hc]; rfl) with rfl | rfl <;> cases hc <;>
      exact onTrack_distanceSound _ (by decide)
  grid := fun h => absurd h (by decide)

theorem green_portsSound : green.PortsSound := by
  intro p
  constructor
  all_goals revert p; decide +kernel

theorem green_holdSound : green.HoldSound where
  held := by decide +kernel
  coasting := by decide +kernel

/-! ### Every statement's hypotheses are met

One theorem for each statement that has hypotheses, with a case for each of its clauses; the values at
the ends of a clause's range are among them. Where the conclusion has cases of its own, a test
beside the theorem takes a step in each. -/

/-- The request that `asks` puts on a port. -/
def req (k : RequestKind) (payload : List Byte) : Request := ⟨k, payload, 0⟩

/-- The state with port 0 fenced. -/
def fenced (s : State) : State := s.modifyPort 0 fun c =>
  { c with fenced := true, errorRecord := some ⟨.badCheck, none, 0, true⟩,
           presence := .late, silence := .second 2750 }

/-- A tick waits in GREEN. -/
def ticking : State := { green with pending := [.tick] }

/-- The step of that tick. -/
theorem step_ticking : step ticking = .next (after .tick green) := rfl

theorem meets_StepKeepsPortsSound :
    ticking.PortsSound ∧ step ticking = .next (after .tick green) :=
  ⟨green_portsSound, step_ticking⟩

theorem ticking_raceSound : ticking.RaceSound := by
  constructor
  exacts [green_raceSound.opener, green_raceSound.openerEntered, green_raceSound.standings,
    green_raceSound.someCar, green_raceSound.courseLocked, green_raceSound.courseIdle,
    green_raceSound.entryIdle, green_raceSound.groupsBefore, green_raceSound.hold,
    green_raceSound.countdown, green_raceSound.entryWindow, green_raceSound.gridWait,
    green_raceSound.closing, green_raceSound.resultsHold, green_raceSound.votes,
    green_raceSound.released, green_raceSound.reason, green_raceSound.table, green_raceSound.clock]

theorem meets_StepKeepsRaceSound :
    ticking.RaceSound ∧ step ticking = .next (after .tick green) :=
  ⟨ticking_raceSound, step_ticking⟩

theorem meets_StepKeepsHoldSound :
    ticking.RaceSound ∧ ticking.HoldSound ∧ step ticking = .next (after .tick green) :=
  ⟨ticking_raceSound, ⟨green_holdSound.held, green_holdSound.coasting⟩, step_ticking⟩

theorem meets_StepKeepsOrderSound :
    ticking.RaceSound ∧ ticking.OrderSound ∧ step ticking = .next (after .tick green) :=
  ⟨ticking_raceSound, by
    constructor
    exacts [green_orderSound.nodup, green_orderSound.complete, green_orderSound.active,
      green_orderSound.retired, green_orderSound.finished, green_orderSound.activeOrder,
      green_orderSound.retiredOrder, green_orderSound.times, green_orderSound.entryPositions],
    step_ticking⟩

theorem meets_StepKeepsDistancesSound :
    ticking.RaceSound ∧ ticking.DistancesSound ∧ step ticking = .next (after .tick green) :=
  ⟨ticking_raceSound, by
    constructor
    exacts [green_distancesSound.course, green_distancesSound.settings, green_distancesSound.cars,
      green_distancesSound.grid], step_ticking⟩

/-- The pointer is 7, so port 1 goes before port 7; and each timer one tick before its end. -/
theorem meets_ArbiterGrantsNextInOrder :
    (asks 1 .ready [] (asks 7 .ready [] idle)).arbiterChoice = some 1 ∧
    idle.arbiterChoice = none ∧
    (.ready, .ready 7) ∈ raceRequests 7 ∧
    (asks 1 .ready [] (asks 7 .ready [] idle)).arbiterChoice ≠ some 7 ∧
    (.nop, .nop 0) ∈ localRequests 0 ∧ (idle.port 0).head = none ∧
    (let s : State := { forming with race := { forming.race with entryWindow := some 29999 } }
     s.race.phase = .forming ∧ s.race.entryWindow = some 29999 ∧
     29999 < s.race.settings.entryWindow) ∧
    grid.race.gridWait = some 20000 ∧ countdown.race.countdown = some 100 ∧
    green.race.phase ≠ .finishing ∧ results.race.resultsHold = some 60000 ∧
    (let s : State := { green with raceClock := 10049, race := { green.race with
     votes := green.race.votes.set 0 (some 50) } }
     s.race.phase.running = true ∧ s.race.votes.get 0 = some 50 ∧ s.raceClock < 50 + 10000) ∧
    (green.port 0).silence ≠ .first 0 ∧ (green.port 0).silence ≠ .second 0 ∧
    (green.port 0).pushTimer ≠ some 0 := by decide +kernel

theorem meets_RaceRequestsLeavePortsAlone :
    ∀ k ∈ RequestKind.all, k.portLocal = false →
      (asks 0 k [] idle).granted 0 k = some (req k []) ∧ k.reservedNonzero [] = false := by
  decide +kernel

/-- What a request meets that port 0 asks on an unfenced port. -/
def Asked (k : RequestKind) (payload : List Byte) (s : State) : Prop :=
  (asks 0 k payload s).granted 0 k = some (req k payload) ∧ k.reservedNonzero payload = false ∧
    ((asks 0 k payload s).port 0).fenced = false

/-- Laps 0, one below its range. -/
def shortRules : List Byte := [0x01, 0x00] ++ List.replicate 36 0

/-- Class 16, one above its range. -/
def highClass : List Byte := [0x01, 0x10, 0, 0, 0, 0, 0, 0]

theorem meets_RefusalsByFenceAndPhase :
    (∀ k ∈ RequestKind.all, k.portLocal = false →
      (asks 0 k [] (fenced idle)).granted 0 k = some (req k []) ∧
      ((asks 0 k [] (fenced idle)).port 0).fenced = true ∧
      ((asks 0 k [] idle).port 0).fenced = false ∧ (asks 0 k [] idle).race.phase = .idle) ∧
    (∀ k ∈ [RequestKind.identify, .nop, .setPush],
      (asks 0 k [] (fenced idle)).localRequest 0 k = some (req k []) ∧
      k.reservedNonzero [] = false) ∧
    (∀ k ∈ [RequestKind.setRules, .loadCourse],
      (asks 0 k [] grid).granted 0 k = some (req k []) ∧ ((asks 0 k [] grid).port 0).fenced = false ∧
      (asks 0 k [] grid).race.phase = .grid) := by decide +kernel

/-- The refusals of OPEN_RACE and of the requests of FORMING. -/
theorem meets_RefusalsByFenceAndPhase_in_forming :
    Asked .openRace [] forming ∧ forming.race.phase ≠ .idle ∧
    (∀ k ∈ [RequestKind.setRules, .loadCourse, .closeEntries],
      Asked k [] { forming with race := { forming.race with opener := some 1 } }) ∧
    Asked .setRules shortRules forming ∧ forming.race.opener = some 0 ∧
    (rulesMask shortRules).testBit 0 = true ∧ rulesValue shortRules 0 < (settingRange 0).1 ∧
    Asked .loadCourse [] forming ∧ courseOf [] = none ∧
    Asked .closeEntries [] formingAlone ∧ formingAlone.course = none ∧
    (∀ k ∈ [RequestKind.enter, .closeEntries], Asked k [] grid ∧ grid.race.phase = .grid) ∧
    Asked .enter [] forming ∧ forming.car 0 ≠ none ∧
    (∀ s ∈ [formingAlone, { formingAlone with course := some oval }],
      Asked .enter [] { s with cars := .fill none } ∧
      ({ s with cars := .fill none } : State).car 0 = none) ∧
    oval.checkValue ≠ enterCheck [] := by
  unfold Asked
  decide +kernel

/-- The refusals by car state and phase. -/
theorem meets_RefusalsByFenceAndPhase_of_cars :
    (∀ k ∈ [RequestKind.carSetup, .ready, .leave, .report, .clearFlags, .abortVote],
      Asked k [] { forming with cars := .fill none } ∧
      ({ forming with cars := .fill none } : State).car 0 = none) ∧
    Asked .carSetup [] countdown ∧ countdown.car 0 = some (entryAs .ready 1) ∧
    Asked .carSetup [] green ∧ green.car 0 = some (onTrack 1) ∧ (onTrack 1).standing ≠ .ready ∧
    Asked .carSetup highClass grid ∧ grid.car 0 = some (Car.entry 1) ∧ setupInRange highClass = false ∧
    Asked .ready [] forming ∧ forming.race.phase ≠ .grid ∧
    Asked .ready [] { grid with cars := countdown.cars } ∧
    (∀ x ∈ [Standing.finished 50, .retired .left 50],
      (∀ k ∈ [RequestKind.leave, .report, .abortVote],
        Asked k [] { green with cars := green.cars.set 0 (some (entryAs x 1)) }) ∧
      x.state ∈ [CarState.finished, .retired]) ∧
    (∀ k ∈ [RequestKind.report, .clearFlags], ∀ s ∈ [forming, grid, results],
      Asked k [] s ∧ s.race.phase ∈ [.forming, .grid, .results]) ∧
    (∀ s ∈ [forming, grid, countdown, results],
      Asked .abortVote [] s ∧ s.race.phase.running = false) := by
  unfold Asked
  decide +kernel

theorem meets_OpenRaceOpensARace :
    (asks 0 .openRace [] idle).RaceSound ∧
    (asks 0 .openRace [] idle).granted 0 .openRace = some (req .openRace []) ∧
    ((asks 0 .openRace [] idle).port 0).fenced = false ∧
    (asks 0 .openRace [] idle).race.phase = .idle :=
  ⟨raceSound_ports _ idle_raceSound, by decide +kernel⟩

/-- Mask bit 2 selects the entry window, at the lower end of its range. -/
def windowRules : List Byte :=
  [0x04, 0x00] ++ List.replicate 8 0 ++ [0x88, 0x13, 0x00, 0x00] ++ List.replicate 24 0

/-- With the window selected and not, and its new length passed, and passed but for 1 ms. -/
theorem meets_SetRulesAppliesMaskedSettings :
    ∀ passed ∈ [4999, 5000], ∀ x ∈ [windowRules, [0x01, 0x00, 0x02] ++ List.replicate 35 0],
      let s := asks 0 .setRules x
        { forming with race := { forming.race with entryWindow := some passed } }
      s.granted 0 .setRules = some (req .setRules x) ∧ (s.port 0).fenced = false ∧
      s.race.phase = .forming ∧ s.race.opener = some 0 ∧ rulesInRange x = true ∧
      s.race.entryWindow = some passed ∧
      ((rulesMask x).testBit 2 = true ↔ x = windowRules) ∧
      (Settings.default.apply windowRules).entryWindow = 5000 := by decide +kernel

/-- The forming race with a course of another check value. -/
def otherCourse : State := { forming with course := some { oval with checkValue := 0 } }

theorem otherCourse_sound : otherCourse.RaceSound ∧ otherCourse.OrderSound := by
  constructor <;> constructor
  exacts [forming_raceSound.opener, forming_raceSound.openerEntered, forming_raceSound.standings,
    forming_raceSound.someCar, by decide +kernel, by decide +kernel, forming_raceSound.entryIdle,
    forming_raceSound.groupsBefore, forming_raceSound.hold, forming_raceSound.countdown,
    forming_raceSound.entryWindow, forming_raceSound.gridWait, forming_raceSound.closing,
    forming_raceSound.resultsHold, forming_raceSound.votes, forming_raceSound.released,
    forming_raceSound.reason, forming_raceSound.table, forming_raceSound.clock,
    forming_orderSound.nodup, forming_orderSound.complete, forming_orderSound.active,
    forming_orderSound.retired, forming_orderSound.finished, forming_orderSound.activeOrder,
    forming_orderSound.retiredOrder, forming_orderSound.times, forming_orderSound.entryPositions]

theorem meets_LoadCourseReplacesTheCourse :
    (∀ s ∈ [forming, formingAlone, otherCourse],
      (asks 0 .loadCourse ovalBytes s).granted 0 .loadCourse = some (req .loadCourse ovalBytes) ∧
      ((asks 0 .loadCourse ovalBytes s).port 0).fenced = false ∧
      (asks 0 .loadCourse ovalBytes s).race.phase = .forming ∧
      (asks 0 .loadCourse ovalBytes s).race.opener = some 0) ∧
    courseOf ovalBytes = some oval ∧
    (asks 0 .loadCourse ovalBytes forming).course.map Course.checkValue = some oval.checkValue ∧
    (∀ q : Port, q ≠ 0 → (asks 0 .loadCourse ovalBytes formingAlone).carState q ≠ .entered) ∧
    (asks 0 .loadCourse ovalBytes otherCourse).car 0 = some (Car.entry 1) ∧
    (asks 0 .loadCourse ovalBytes otherCourse).course.map Course.checkValue ≠ some oval.checkValue ∧
    (asks 0 .loadCourse ovalBytes otherCourse).RaceSound ∧
    (asks 0 .loadCourse ovalBytes otherCourse).OrderSound :=
  ⟨by decide +kernel, by decide +kernel, by decide +kernel, by decide +kernel, by decide +kernel,
    by decide +kernel, raceSound_ports _ otherCourse_sound.1, orderSound_ports _ otherCourse_sound.2⟩

/-- The withdrawal of a changed check value is told to both ports before the response (R6, R52). -/
theorem test_loadCourse_withdraws :
    let s := after (.loadCourse 0) (asks 0 .loadCourse ovalBytes otherCourse)
    s.car 1 = none ∧ s.entryList = [0] ∧
    ∀ q ∈ [(0 : Port), 1], (s.port q).noticeQueue = [.entry 1 .withdrawn .courseChanged 2] := by
  decide +kernel

/-- Port 1 asks to enter the race that port 0 opened. -/
def entering : State :=
  asks 1 .enter [0xC7, 0xE5, 0xEF, 0x9E] { formingAlone with course := some oval }

theorem meets_EnterAppendsTheCar :
    entering.granted 1 .enter = some (req .enter [0xC7, 0xE5, 0xEF, 0x9E]) ∧
    (entering.port 1).fenced = false ∧ entering.race.phase = .forming ∧ entering.car 1 = none ∧
    entering.course = some oval ∧ oval.checkValue = enterCheck [0xC7, 0xE5, 0xEF, 0x9E] := by
  decide +kernel

/-- Class 15, tag "A0 " and rate limit 1, all selected. -/
def setupBytes : List Byte := [0x07, 0x0F, 0x41, 0x30, 0x20, 0x00, 0x01, 0x00]

theorem meets_CarSetupAppliesMaskedFields :
    ∀ s ∈ [forming, grid],
      (asks 0 .carSetup setupBytes s).granted 0 .carSetup = some (req .carSetup setupBytes) ∧
      ((asks 0 .carSetup setupBytes s).port 0).fenced = false ∧
      ((asks 0 .carSetup setupBytes s).race.phase = .forming ∨
        (asks 0 .carSetup setupBytes s).race.phase = .grid) ∧
      (asks 0 .carSetup setupBytes s).car 0 = some (Car.entry 1) ∧
      (Car.entry 1).standing = .entered ∧ setupInRange setupBytes = true ∧
      byteAt setupBytes 5 = 0 := by decide +kernel

theorem meets_CloseEntriesMovesToGrid :
    (asks 0 .closeEntries [] forming).granted 0 .closeEntries = some (req .closeEntries []) ∧
    ((asks 0 .closeEntries [] forming).port 0).fenced = false ∧
    (asks 0 .closeEntries [] forming).race.phase = .forming ∧
    (asks 0 .closeEntries [] forming).race.opener = some 0 ∧
    (asks 0 .closeEntries [] forming).course ≠ none := by decide +kernel

/-- On the grid with no car READY. -/
def gridUnready : State := { grid with cars := forming.cars }

theorem meets_ReadyMayStartTheCountdown :
    (∀ s ∈ [grid, gridUnready],
      (asks 0 .ready [] s).granted 0 .ready = some (req .ready []) ∧
      ((asks 0 .ready [] s).port 0).fenced = false ∧ (asks 0 .ready [] s).race.phase = .grid ∧
      (asks 0 .ready [] s).car 0 = some (Car.entry 1) ∧ (Car.entry 1).standing = .entered) ∧
    (∃ q : Port, q ≠ 0 ∧ (asks 0 .ready [] gridUnready).car q ≠ none ∧
      (asks 0 .ready [] gridUnready).carState q ≠ .ready) ∧
    (∀ q : Port, q ≠ 0 → (asks 0 .ready [] grid).car q ≠ none →
      (asks 0 .ready [] grid).carState q = .ready) := by decide +kernel

theorem meets_LeaveWithdrawsInForming :
    (∀ s ∈ [forming, formingAlone], (asks 0 .leave [] s).granted 0 .leave = some (req .leave []) ∧
      ((asks 0 .leave [] s).port 0).fenced = false ∧ (asks 0 .leave [] s).race.phase = .forming ∧
      (asks 0 .leave [] s).car 0 = some (Car.entry 1) ∧
      (asks 0 .leave [] s).race.opener = some 0) ∧
    ((asks 0 .leave [] forming).carState 1 = .entered ∧
      ∀ x : Port, x < 1 → x ≠ 0 → (asks 0 .leave [] forming).carState x ≠ .entered) ∧
    (∀ q : Port, q ≠ 0 → (asks 0 .leave [] formingAlone).carState q ≠ .entered) ∧
    (asks 1 .leave [] forming).granted 1 .leave = some (req .leave []) ∧
    ((asks 1 .leave [] forming).port 1).fenced = false ∧
    (asks 1 .leave [] forming).car 1 = some (Car.entry 2) ∧
    (asks 1 .leave [] forming).race.opener ≠ some 1 := by decide +kernel

/-- LEAVE in FORMING, GRID and COUNTDOWN. -/
theorem meets_LeaveWithdrawsInForming_in_every_phase :
    ∀ s ∈ [forming, grid, countdown],
      let u := asks 0 .leave [] s
      u.granted 0 .leave = some (req .leave []) ∧ (u.port 0).fenced = false ∧
      (u.race.phase = .forming ∨ u.race.phase = .grid ∨ u.race.phase = .countdown) ∧
      (u.car 0).isSome = true ∧ u.entryList.Nodup := by decide +kernel

/-- A state with the car of port 0 alone. -/
def alone (s : State) : State := { s with cars := s.cars.set 1 none, entryList := [0] }

/-- The tests after a withdrawal: the others READY or not, no car left, and a hold that ends. -/
theorem test_leave_before_the_green :
    (after (.leave 0) (asks 0 .leave [] grid)).race.phase = .countdown ∧
    (after (.leave 1) (asks 1 .leave [] grid)).race.phase = .grid ∧
    (after (.leave 0) (asks 0 .leave [] (alone grid))).race.phase = .idle ∧
    (after (.leave 0) (asks 0 .leave [] (alone countdown))).race.phase = .idle ∧
    (after (.leave 0) (asks 0 .leave [] (countdown.modifyPort 0 fun c =>
      { c with presence := .late, silence := .second 100 }))).race.countdown = some 100 ∧
    ((after (.leave 0) (asks 0 .leave [] countdown)).port 1).noticeQueue =
      [.entry 0 .withdrawn .left 1, .position 1, .leader 1] := by decide +kernel

theorem meets_LeaveRetiresARunningCar :
    (asks 0 .leave [] green).granted 0 .leave = some (req .leave []) ∧
    ((asks 0 .leave [] green).port 0).fenced = false ∧
    (asks 0 .leave [] green).race.phase.running = true ∧
    (asks 0 .leave [] green).car 0 = some (onTrack 1) ∧ (onTrack 1).standing.running = true ∧
    (asks 0 .leave [] green).car 1 = some (onTrack 2) ∧ (onTrack 2).standing.running = true ∧
    2 * ((asks 0 .leave [] green).dropVote 0).voteCount ≤
      (asks 0 .leave [] green).eligibleCount - 1 := by decide +kernel

/-- The end tests after a retirement: no car runs, with a finish and without, and the threshold met. -/
theorem test_leave_ends_the_race :
    (after (.leave 0) (asks 0 .leave [] { green with
      cars := green.cars.set 1 (some { onTrack 2 with standing := .finished 50 })
      activeGroup := [0], finishList := [⟨1, 50⟩] })).race.resultsReason = some .allFinished ∧
    (after (.leave 0) (asks 0 .leave [] { alone green with activeGroup := [0] })).race.resultsReason =
      some .allRetired ∧
    (after (.leave 0) (asks 0 .leave [] { green with race := { green.race with
      votes := green.race.votes.set 1 (some 50) } })).race.resultsReason = some .aborted ∧
    ((after (.leave 0) (asks 0 .leave [] green)).port 1).noticeQueue =
      [.carState 0 .retired .left, .position 1, .leader 1, .vote 0 1] := by decide +kernel

/-- In RESULTS, port 1 is released. -/
def released : State :=
  { results with race := { results.race with releaseSet := results.race.releaseSet.set 1 true } }

theorem meets_LeaveReleasesTheResults :
    (∀ s ∈ [results, released], (asks 0 .leave [] s).granted 0 .leave = some (req .leave []) ∧
      ((asks 0 .leave [] s).port 0).fenced = false ∧ (asks 0 .leave [] s).race.phase = .results ∧
      (asks 0 .leave [] s).car 0 = some { onTrack 1 with standing := .stopped }) ∧
    (∃ q : Port, q ≠ 0 ∧ (asks 0 .leave [] results).isRacePort q = true ∧
      (asks 0 .leave [] results).race.releaseSet.get q = false) ∧
    (∀ q : Port, q ≠ 0 → (asks 0 .leave [] released).isRacePort q = true →
      (asks 0 .leave [] released).race.releaseSet.get q = true) := by decide +kernel

/-- The last release is told with a PHASE notice of reason RELEASED (R38). -/
theorem test_last_release_is_told :
    let s := after (.leave 0) (asks 0 .leave [] released)
    s.race.phase = .idle ∧
    ∀ q ∈ [(0 : Port), 1], (s.port q).noticeQueue = [.phase (.changed .idle .released) 1] := by
  decide +kernel

/-- Both a positive delta and a delta of 0 may come in COUNTDOWN. -/
theorem meets_CountdownReportMayJumpStart :
    ∀ delta ∈ ([[0x01, 0x00, 0x00, 0x00], [0x00, 0x00, 0x00, 0x00]] : List (List Byte)),
      (asks 0 .report delta countdown).granted 0 .report = some (req .report delta) ∧
      ((asks 0 .report delta countdown).port 0).fenced = false ∧
      (asks 0 .report delta countdown).race.phase = .countdown ∧
      (asks 0 .report delta countdown).car 0 = some (entryAs .ready 1) ∧
      (entryAs .ready 1).standing = .ready := by decide +kernel

/-- Port 0 reports a delta in GREEN. -/
def reporting (delta : List Byte) : State := asks 0 .report delta green

/-- What every report of a RACING car in GREEN meets. -/
theorem reporting_meets (delta : List Byte)
    (h : delta ∈ ([[0, 0, 0, 0], [0xD4, 0xFE, 0xFF, 0xFF], [0xB8, 0x0B, 0, 0]] : List (List Byte))) :
    (reporting delta).granted 0 .report = some (req .report delta) ∧
    ((reporting delta).port 0).fenced = false ∧ (reporting delta).race.phase = .green ∧
    (reporting delta).car 0 = some (onTrack 1) ∧ (onTrack 1).standing = .racing ∧
    (reporting delta).course = some oval ∧ 1 ≤ (onTrack 1).rateLimit := by
  revert delta
  decide +kernel

/-- With `reporting_meets`. -/
theorem meets_ZeroReportClearsMovementFlags :
    (reporting [0, 0, 0, 0]).granted 0 .report = some (req .report [0, 0, 0, 0]) ∧
    reportDelta [0, 0, 0, 0] = 0 :=
  ⟨(reporting_meets _ (by decide)).1, by decide +kernel⟩

/-- With `reporting_meets`. -/
theorem meets_ReverseReportIsHeldAtTheFloor :
    (reporting [0xD4, 0xFE, 0xFF, 0xFF]).granted 0 .report =
      some (req .report [0xD4, 0xFE, 0xFF, 0xFF]) ∧
    reportDelta [0xD4, 0xFE, 0xFF, 0xFF] < 0 ∧
    300 = min (reportDelta [0xD4, 0xFE, 0xFF, 0xFF]).natAbs
      ((onTrack 1).rateLimit * max 1 (green.raceClock - (onTrack 1).lastReport)) ∧
    (reporting [0xD4, 0xFE, 0xFF, 0xFF]).OrderSound :=
  ⟨(reporting_meets _ (by decide)).1, by decide +kernel, by decide +kernel,
    orderSound_ports _ green_orderSound⟩

/-- With `reporting_meets`. -/
theorem meets_ForwardReportCrossesGates :
    (reporting [0xB8, 0x0B, 0, 0]).granted 0 .report = some (req .report [0xB8, 0x0B, 0, 0]) ∧
    (reporting [0xB8, 0x0B, 0, 0]).DistancesSound ∧ (reporting [0xB8, 0x0B, 0, 0]).OrderSound ∧
    0 < reportDelta [0xB8, 0x0B, 0, 0] ∧
    3000 = min (reportDelta [0xB8, 0x0B, 0, 0]).natAbs
      ((onTrack 1).rateLimit * max 1 (green.raceClock - (onTrack 1).lastReport)) ∧
    (onTrack 1).distance + 3000 < oval.finish green.race.settings.laps :=
  ⟨(reporting_meets _ (by decide)).1, by
    constructor
    exacts [green_distancesSound.course, green_distancesSound.settings, green_distancesSound.cars,
      green_distancesSound.grid], orderSound_ports _ green_orderSound, by decide +kernel⟩

/-- 20,000 tu in 100 ms cross two lines: the first lap takes the 100 ms, the second none of them (R79), and
each has its GATE notice (R80). -/
theorem test_report_crosses_two_lines :
    ((after (.report 0) (asks 0 .report [0x20, 0x4E, 0, 0] green)).car 0).map
      (fun c => (c.laps, c.lastLine)) = some ([100, 0], 100) ∧
    ((after (.report 0) (asks 0 .report [0x20, 0x4E, 0, 0] green)).port 0).noticeQueue =
      [.gate ⟨2, 0⟩ 100 (some 100), .gate ⟨3, 0⟩ 100 (some 0)] := by decide +kernel

/-- In GREEN at 200 ms, port 0 reports 32,768 tu, past F of 30,000. -/
def arriving : State := { reporting [0, 0, 0, 0] with raceClock := 200 }

/-- The same with the report that reaches F. -/
def finishing : State := asks 0 .report [0, 0x80, 0, 0] arriving

theorem meets_FirstFinishEntersFinishing :
    finishing.granted 0 .report = some (req .report [0, 0x80, 0, 0]) ∧
    (finishing.port 0).fenced = false ∧ finishing.race.phase = .green ∧ finishing.DistancesSound ∧
    finishing.car 0 = some (onTrack 1) ∧ (onTrack 1).standing = .racing ∧
    finishing.course = some oval ∧ 0 < reportDelta [0, 0x80, 0, 0] ∧ 1 ≤ (onTrack 1).rateLimit ∧
    32768 = min (reportDelta [0, 0x80, 0, 0]).natAbs
      ((onTrack 1).rateLimit * max 1 (finishing.raceClock - (onTrack 1).lastReport)) ∧
    oval.finish finishing.race.settings.laps ≤ (onTrack 1).distance + 32768 ∧
    finishing.car 1 = some (onTrack 2) ∧ (onTrack 2).standing.running = true ∧
    finishing.thresholdMet = false ∧ 0 < finishing.race.settings.closingWindow := by
  refine ⟨by decide +kernel, by decide +kernel, by decide +kernel, ?_, by decide +kernel⟩
  constructor
  exacts [green_distancesSound.course, green_distancesSound.settings, green_distancesSound.cars,
    green_distancesSound.grid]

/-- A second finish, in FINISHING. -/
def finishingAgain : State := { finishing with
  race := { finishing.race with phase := .finishing, closingWindow := some 20000 } }

/-- A finish granted in FINISHING meets the premises too, and the running order is sound. -/
theorem meets_FirstFinishEntersFinishing_in_finishing :
    finishingAgain.granted 0 .report = some (req .report [0, 0x80, 0, 0]) ∧
    finishingAgain.race.phase.running = true ∧ finishingAgain.DistancesSound ∧
    finishingAgain.OrderSound ∧ finishingAgain.car 0 = some (onTrack 1) := by
  refine ⟨by decide +kernel, by decide +kernel, ?_, ?_, by decide +kernel⟩ <;> constructor
  exacts [green_distancesSound.course, green_distancesSound.settings, green_distancesSound.cars,
    green_distancesSound.grid, green_orderSound.nodup, green_orderSound.complete,
    green_orderSound.active, green_orderSound.retired, green_orderSound.finished,
    green_orderSound.activeOrder, green_orderSound.retiredOrder,
    ⟨List.Pairwise.nil, fun e h => absurd h List.not_mem_nil⟩, green_orderSound.entryPositions]

/-- The end tests after a finish: in FINISHING the race goes on, with closing window 0 it is closed, alone
all have finished, and the first finish enters FINISHING after its FINISH notice. -/
theorem test_report_finishes :
    (after (.report 0) finishingAgain).race.phase = .finishing ∧
    (after (.report 0) finishingAgain).finishList = [⟨0, 200⟩] ∧
    (after (.report 0) { finishing with race := { finishing.race with
      settings := { finishing.race.settings with closingWindow := 0 } } }).race.resultsReason =
      some .closed ∧
    (after (.report 0) { alone finishing with activeGroup := [0] }).race.resultsReason =
      some .allFinished ∧
    ((after (.report 0) finishing).port 1).noticeQueue =
      [.finish 0 1 200, .phase (.changed .finishing .none) 1] := by decide +kernel

/-- In GREEN with car 0 finished. -/
def finished : State :=
  { green with cars := green.cars.set 0 (some { onTrack 1 with standing := .finished 50 }) }

theorem meets_CoastingAndFinishedReports :
    (asks 0 .report [0, 0, 0, 0] coasting).granted 0 .report = some (req .report [0, 0, 0, 0]) ∧
    ((asks 0 .report [0, 0, 0, 0] coasting).port 0).fenced = false ∧
    (asks 0 .report [0, 0, 0, 0] coasting).race.phase.running = true ∧
    (asks 0 .report [0, 0, 0, 0] coasting).car 0 = some { onTrack 1 with standing := .coasting } ∧
    (asks 0 .report [0, 0, 0, 0] finished).granted 0 .report = some (req .report [0, 0, 0, 0]) ∧
    ((asks 0 .report [0, 0, 0, 0] finished).port 0).fenced = false ∧
    (asks 0 .report [0, 0, 0, 0] finished).race.phase.running = true ∧
    (asks 0 .report [0, 0, 0, 0] finished).car 0 =
      some { onTrack 1 with standing := .finished 50 } := by decide +kernel

theorem meets_ClearFlagsClearsSelectedFlags :
    ∀ s ∈ [countdown, green, finished],
      (asks 0 .clearFlags [0x0F] s).granted 0 .clearFlags = some (req .clearFlags [0x0F]) ∧
      ((asks 0 .clearFlags [0x0F] s).port 0).fenced = false ∧
      ((asks 0 .clearFlags [0x0F] s).car 0).isSome = true ∧
      ((asks 0 .clearFlags [0x0F] s).race.phase = .countdown ∨
        (asks 0 .clearFlags [0x0F] s).race.phase = .green ∨
        (asks 0 .clearFlags [0x0F] s).race.phase = .finishing) := by decide +kernel

theorem meets_SnapshotCapturesTheRace :
    (asks 0 .snapshot [] green).granted 0 .snapshot = some (req .snapshot []) ∧
    ((asks 0 .snapshot [] green).port 0).fenced = false ∧ (asks 0 .snapshot [] green).OrderSound ∧
    (asks 0 .snapshot [] green).runningOrder = [0, 1] :=
  ⟨by decide +kernel, by decide +kernel, orderSound_ports _ green_orderSound, by decide +kernel⟩

theorem meets_FinishedBandByTotalTime :
    green.OrderSound ∧ green.race.phase.running = true ∧
    (((green.stopRace .limit).buildResults .limit).entries.map fun e => (e.position, e.slot, e.state)) =
      [(1, 0, .stopped), (2, 1, .stopped)] :=
  ⟨green_orderSound, by decide +kernel, by decide +kernel⟩

/-- The ages 65,534 and 65,535 of a pose that arrived at tick 0. -/
theorem meets_PoseAgeInSnapshots :
    (({ green with tickCount := 65534 } : State).tickCount - 0 ≤ 65534) ∧
    (65534 < ({ green with tickCount := 65535 } : State).tickCount - 0) ∧
    ({ onTrack 1 with pose := some ⟨[], 0⟩ } : Car).pose = some ⟨[], 0⟩ ∧ (onTrack 1).pose = none := by
  decide +kernel

theorem meets_ReadLapsReturnsLapTimes :
    (asks 0 .readLaps [0x01, 0x00] green).granted 0 .readLaps = some (req .readLaps [0x01, 0x00]) := by
  decide +kernel

theorem meets_ReadResultsReturnsTheTable :
    (∀ s ∈ [fenced idle, idle, green, results],
      (asks 0 .readResults [] s).granted 0 .readResults = some (req .readResults [])) ∧
    ((asks 0 .readResults [] (fenced idle)).port 0).fenced = true ∧
    ((asks 0 .readResults [] idle).port 0).fenced = false ∧
    ((asks 0 .readResults [] green).port 0).fenced = false ∧
    ((asks 0 .readResults [] results).port 0).fenced = false ∧
    (asks 0 .readResults [] results).race.phase = .results ∧
    ((asks 0 .readResults [] results).resultsTable).isSome = true := by decide +kernel

/-- In GREEN with port 1's vote held. -/
def voted : State :=
  { green with race := { green.race with votes := green.race.votes.set 1 (some 50) } }

theorem meets_AbortVoteCountsTowardTheThreshold :
    (∀ s ∈ [green, voted],
      (asks 0 .abortVote [] s).granted 0 .abortVote = some (req .abortVote []) ∧
      ((asks 0 .abortVote [] s).port 0).fenced = false ∧
      (asks 0 .abortVote [] s).race.phase.running = true ∧
      (asks 0 .abortVote [] s).car 0 = some (onTrack 1)) ∧
    (onTrack 1).standing.eligible = true ∧
    2 * ((asks 0 .abortVote [] green).modifyRace fun x =>
      { x with votes := x.votes.set 0 (some 100) }).voteCount ≤ green.eligibleCount ∧
    voted.eligibleCount < 2 * ((asks 0 .abortVote [] voted).modifyRace fun x =>
      { x with votes := x.votes.set 0 (some 100) }).voteCount ∧
    (∃ q : Port, (asks 0 .abortVote [] voted).isRacePort q = true ∧
      ((asks 0 .abortVote [] voted).port q).presence ≠ .lost) := by decide +kernel

/-- A majority is told with a VOTE notice and then with the entry into RESULTS (R123, R36). -/
theorem test_majority_is_told :
    ((after (.abortVote 0) (asks 0 .abortVote [] voted)).port 1).noticeQueue =
      [.vote 2 2, .phase (.changed .results .aborted) 1] := by decide +kernel

theorem meets_WithdrawVoteRemovesTheVote :
    (asks 2 .withdrawVote [] forming).granted 2 .withdrawVote = some (req .withdrawVote []) ∧
    ((asks 2 .withdrawVote [] forming).port 2).fenced = false ∧
    (asks 2 .withdrawVote [] forming).car 2 = none ∧
    (asks 0 .withdrawVote [] (fenced green)).granted 0 .withdrawVote = some (req .withdrawVote []) ∧
    ((asks 0 .withdrawVote [] (fenced green)).port 0).fenced = true ∧
    (asks 0 .withdrawVote [] idle).granted 0 .withdrawVote = some (req .withdrawVote []) ∧
    ((asks 0 .withdrawVote [] idle).port 0).fenced = false ∧
    (asks 0 .withdrawVote [] idle).race.phase = .idle ∧
    (∀ s ∈ [forming, green],
      (asks 0 .withdrawVote [] s).granted 0 .withdrawVote = some (req .withdrawVote []) ∧
      ((asks 0 .withdrawVote [] s).port 0).fenced = false ∧
      ((asks 0 .withdrawVote [] s).car 0).isSome = true) ∧
    (asks 0 .withdrawVote [] forming).race.phase.running = false ∧
    (asks 0 .withdrawVote [] green).race.phase.running = true := by decide +kernel

theorem meets_IdentifyAndNopChangeNothing :
    (asks 0 .identify [] idle).localRequest 0 .identify = some (req .identify []) ∧
    (asks 0 .nop [] idle).localRequest 0 .nop = some (req .nop []) := by decide +kernel

/-- The intervals 0, 15, 16, 1,000 and 1,001, in GREEN and in IDLE. -/
theorem meets_SetPushSetsTheInterval :
    (∀ s ∈ [green, idle], ∀ x ∈ ([[0, 0, 0, 0], [15, 0, 0, 0], [16, 0, 0, 0], [0xE8, 3, 0, 0],
        [0xE9, 3, 0, 0]] : List (List Byte)),
      (asks 0 .setPush x s).localRequest 0 .setPush = some (req .setPush x) ∧
      byteAt x 2 = 0 ∧ byteAt x 3 = 0 ∧ ((asks 0 .setPush x s).port 0).fenced = false ∧
      ((asks 0 .setPush x s).race.phase = .idle → ((asks 0 .setPush x s).port 0).pushTimer = none)) ∧
    (asks 0 .setPush [0, 0, 0, 0] (fenced green)).localRequest 0 .setPush =
      some (req .setPush [0, 0, 0, 0]) ∧
    ((asks 0 .setPush [0, 0, 0, 0] (fenced green)).port 0).fenced = true ∧
    halfAt [15, 0, 0, 0] 0 = 15 ∧ halfAt [16, 0, 0, 0] 0 = 16 ∧ halfAt [0xE8, 3, 0, 0] 0 = 1000 ∧
    halfAt [0xE9, 3, 0, 0] 0 = 1001 := by decide +kernel

/-- A countdown held for port 0, with 40 ms saved. -/
def heldCountdown : State :=
  { countdown.modifyPort 0 fun c => { c with presence := .late, silence := .second 100 } with
    race := { countdown.race with countdown := none, holdSlot := some 40 } }

theorem meets_ClearErrorsLiftsTheFence :
    (asks 0 .clearErrors [] (fenced idle)).localRequest 0 .clearErrors = some (req .clearErrors []) ∧
    ((asks 0 .clearErrors [] (fenced idle)).port 0).errorRecord ≠ none ∧
    (asks 0 .clearErrors [] (fenced idle)).race.phase ≠ .countdown ∧
    (asks 0 .clearErrors [] (fenced idle)).carState 0 ≠ .coasting ∧
    (∀ x ∈ [Presence.present, .lost], let s := asks 0 .clearErrors [] (countdown.modifyPort 0 fun c =>
        { c with presence := x, errorRecord := some ⟨.badField, none, 0, false⟩ })
      s.localRequest 0 .clearErrors = some (req .clearErrors []) ∧
      (s.port 0).errorRecord ≠ none ∧ (s.port 0).presence ≠ .late) ∧
    (asks 0 .clearErrors [] idle).localRequest 0 .clearErrors = some (req .clearErrors []) ∧
    ((asks 0 .clearErrors [] idle).port 0).errorRecord = none ∧
    ((asks 0 .clearErrors [] idle).port 0).fenced = false ∧
    ((asks 0 .clearErrors [] idle).port 0).presence = .present ∧
    (asks 0 .clearErrors [] heldCountdown).localRequest 0 .clearErrors = some (req .clearErrors []) ∧
    ((asks 0 .clearErrors [] heldCountdown).port 0).presence = .late ∧
    (asks 0 .clearErrors [] coasting).localRequest 0 .clearErrors = some (req .clearErrors []) ∧
    (asks 0 .clearErrors [] coasting).race.phase.running = true ∧
    (asks 0 .clearErrors [] coasting).car 0 = some { onTrack 1 with standing := .coasting } ∧
    ((asks 0 .clearErrors [] coasting).port 0).presence = .late := by decide +kernel

/-- CLEAR_ERRORS of a port held for in COUNTDOWN resumes the countdown (R144, R118). -/
theorem test_clearErrors_resumes_the_countdown :
    (after (.clearErrors 0) (asks 0 .clearErrors [] heldCountdown)).race.countdown = some 40 := by
  decide +kernel

/-- The record empty, held once, held with MULTIPLE, and the port fenced. -/
theorem meets_ReservedBytesAreReported :
    (∀ record ∈ [none, some (⟨.badCheck, none, 0, false⟩ : ErrorRecord), some ⟨.badCheck, none, 0, true⟩],
      let hold : State → State := fun s => s.modifyPort 0 fun c => { c with errorRecord := record }
      (asks 0 .carSetup [0, 0, 0, 0, 0, 1, 0, 0] (hold forming)).granted 0 .carSetup =
        some (req .carSetup [0, 0, 0, 0, 0, 1, 0, 0]) ∧ byteAt [0, 0, 0, 0, 0, 1, 0, 0] 5 ≠ 0 ∧
      (∀ x ∈ ([[0, 0, 1, 0], [0, 0, 0, 1]] : List (List Byte)),
        (asks 0 .setPush x (hold idle)).localRequest 0 .setPush = some (req .setPush x) ∧
        (byteAt x 2 ≠ 0 ∨ byteAt x 3 ≠ 0))) ∧
    (asks 0 .setPush [0, 0, 1, 0] (fenced idle)).localRequest 0 .setPush =
      some (req .setPush [0, 0, 1, 0]) := by decide +kernel

/-- A third error by a reserved byte fences the port after the answer (R185, R143). -/
theorem test_reserved_byte_fences :
    let s := after (.setPush 0) (asks 0 .setPush [16, 0, 1, 0] (green.modifyPort 0 fun c =>
      { c with errorRecord := some ⟨.badCheck, none, 0, true⟩ }))
    (s.port 0).pushInterval = 16 ∧ (s.port 0).responseQueue = [.setPush 16] ∧
    (s.port 0).fenced = true ∧ s.carState 0 = .coasting := by decide +kernel

/-- A payload of 240 bytes, a LEN of 241, a frame with a wrong check, and one that holds a frame. -/
theorem meets_FrameBytesBecomeOneValidFrame :
    Receiver.Searched 0 ⟨[] ++ [0xC3], 0⟩ ⟨[0xC3], 0⟩ [] ∧
    (idle.port 0).receiver = ⟨[], 0⟩ ∧ (List.replicate 240 (0 : Byte)).length ≤ 240 ∧
    240 < (0xF1 : Byte).toNat ∧
    (([] : List Byte).length = (0x00 : Byte).toNat ∧
      [0x00, 0x00] ≠ checkBytes (frameCheck [0x00, 0x11]) ∧
      (0xC3 : Byte) ∉ (0x00 : Byte) :: 0x11 :: ([] ++ [0x00, 0x00])) ∧
    (let nop : Frame := ⟨0x11, []⟩
     nop.bytes.length = (0x05 : Byte).toNat ∧
     [0x00, 0x00] ≠ checkBytes (frameCheck (0x05 :: 0x01 :: nop.bytes)) ∧
     nop.payload.length ≤ 240 ∧ (0xC3 : Byte) ∉ [(0x05 : Byte), 0x01] ∧
     (0xC3 : Byte) ∉ [(0x00 : Byte), 0x00] ∧
     (0x05 : Byte) :: 0x01 :: (nop.bytes ++ [0x00, 0x00]) =
       [0x05, 0x01] ++ nop.bytes ++ [0x00, 0x00]) :=
  ⟨.awaitsLength 0, by decide +kernel⟩

/-- One damaged frame gives one error, however many SYNC bytes it holds, and a frame in it is found
(R173). -/
theorem test_search_of_a_discarded_candidate :
    (idle.receiveBytes 0 [0xC3, 0x02, 0x01, 0xC3, 0xFF, 0x00, 0x00]).pending =
      [.badCheckFrame 0, .resynchronisingCandidateDiscard 0] ∧
    (idle.receiveBytes 0 ([0xC3, 0x05, 0x01] ++ Frame.bytes ⟨0x11, []⟩ ++ [0x00, 0x00])).pending =
      [.badCheckFrame 0, .validFrame 0 0x11 []] := by decide +kernel

/-- Four requests wait on port 0. -/
def fullQueue : State := idle.modifyPort 0 fun c =>
  { c with requestQueue := List.replicate 4 (.request (req .snapshot [])) }

/-- Queues empty and full, a fenced port, a port that was LATE, and a response queue with and without
room. -/
theorem meets_ValidFrameQueuesTheRequest :
    RequestKind.ofCode 0x01 = some .openRace ∧ RequestKind.openRace.lengthAllowed [] = true ∧
    RequestKind.openRace.portLocal = false ∧ RequestKind.ofCode 0x11 = some .nop ∧
    RequestKind.nop.lengthAllowed [] = true ∧ (.nop, .nop 0) ∈ localRequests 0 ∧
    (fullQueue.port 0).requestQueue ≠ [] ∧
    4 ≤ (fullQueue.port 0).requestQueue.length ∧ (idle.port 0).requestQueue.length < 4 ∧
    (idle.port 0).requestQueue = [] ∧ (idle.port 0).responseQueue.length < 6 ∧
    6 ≤ ((idle.modifyPort 0 fun c => { c with responseQueue := List.replicate 6 (.bare .nop .ok) }
      ).port 0).responseQueue.length ∧
    (idle.port 0).fenced = false ∧ ((fenced idle).port 0).fenced = true ∧
    (idle.port 0).presence ≠ .late ∧ (coasting.port 0).fenced = false ∧
    (coasting.port 0).presence = .late := by decide +kernel

/-- In GREEN with a record held on port 0. -/
def held (multiple : Bool) : State := green.modifyPort 0 fun c =>
  { c with errorRecord := some ⟨.badField, none, 0, multiple⟩ }

/-- Port 0 with four requests waiting and no room for a response. -/
def fullQueues : State := fullQueue.modifyPort 0 fun c =>
  { c with responseQueue := List.replicate 6 (.bare .nop .ok) }

/-- Queues with and without room; the first, second and third error, on a port that is PRESENT, fenced, or
was LATE. -/
theorem meets_WrongLengthAndUnknownFrames :
    RequestKind.ofCode 0x01 = some .openRace ∧ RequestKind.openRace.lengthAllowed [0] = false ∧
    (idle.port 0).errorRecord = none ∧ RequestKind.ofCode 0x55 = none ∧
    ((asks 0 .snapshot [] idle).port 0).requestQueue ≠ [] ∧
    ((asks 0 .snapshot [] idle).port 0).requestQueue.length < 4 ∧
    ((asks 0 .snapshot [] idle).port 0).errorRecord = none ∧ (idle.port 0).requestQueue = [] ∧
    (idle.port 0).responseQueue.length < 6 ∧
    (4 ≤ (fullQueue.port 0).requestQueue.length ∧ (fullQueue.port 0).responseQueue.length < 6) ∧
    (4 ≤ (fullQueues.port 0).requestQueue.length ∧ 6 ≤ (fullQueues.port 0).responseQueue.length) ∧
    (∀ multiple : Bool, (((held multiple).port 0).errorRecord.map ErrorRecord.multiple = some multiple ∧
      ((held multiple).port 0).fenced = false ∧ ((held multiple).port 0).presence ≠ .late)) ∧
    ((fenced green).port 0).fenced = true ∧ (coasting.port 0).fenced = false ∧
    (coasting.port 0).presence = .late ∧
    ((idle.modifyPort 0 fun c => { c with requestQueue := [.unknown 0x55 0] }).port 0).head =
      some (.unknown 0x55 0) := by decide +kernel

/-- A third error by an unknown frame fences the port with the frame queued or answered (R174, R143); with
both queues full an unknown frame is reported all the same (R175). -/
theorem test_unknown_frames :
    (let s := after (.validFrame 0 0x55 []) (held true)
     (s.port 0).fenced = true ∧ (s.port 0).presence = .late ∧ s.carState 0 = .coasting ∧
     (s.port 0).requestQueue = [] ∧ (s.port 0).responseQueue = [.unknownFrame 0x55 .unknownKind]) ∧
    ((after (.validFrame 0 0x55 []) fullQueue).port 0).responseQueue = [.unknownFrame 0x55 .busy] ∧
    (let s := after (.validFrame 0 0x55 []) fullQueues
     (s.port 0).responseQueue.length = 6 ∧
     (s.port 0).errorRecord = some ⟨.unknownKind, some 0x55, 0, false⟩) := by decide +kernel

/-- Counts 6 and 7, on either side of the eighth bad check, on a PRESENT port and on a fenced one. -/
theorem meets_BadChecksTakeTheLinkDown :
    (State.reset.port 0).link = .down ∧
    (∀ s ∈ [green, fenced green],
      let six := s.modifyPort 0 fun c => { c with badChecks := 6 }
      let seven := s.modifyPort 0 fun c => { c with badChecks := 7 }
      (six.port 0).link = .up ∧ (six.port 0).badChecks + 1 < 8 ∧
      (seven.port 0).link = .up ∧ 8 ≤ (seven.port 0).badChecks + 1) ∧
    (green.port 0).presence = .present ∧ ((fenced green).port 0).presence ≠ .present := by
  decide +kernel

theorem meets_MajorErrorsEndInTheFence :
    (green.port 0).link = .up ∧ (green.port 0).errorRecord = none ∧
    ((held false).port 0).link = .up ∧
    ((held false).port 0).errorRecord = some ⟨.badField, none, 0, false⟩ ∧
    ((held true).port 0).link = .up ∧
    ((held true).port 0).errorRecord = some ⟨.badField, none, 0, true⟩ ∧
    ((held true).port 0).fenced = false ∧ ((held true).port 0).presence = .present ∧
    (held true).race.phase.running = true ∧ (held true).carState 0 = .racing ∧
    ((fenced green).port 0).link = .up ∧ ((fenced green).port 0).fenced = true ∧
    ((fenced green).port 0).errorRecord = some ⟨.badCheck, none, 0, true⟩ ∧
    (State.reset.port 0).link = .down := by decide +kernel

/-- The third error of a LATE port keeps its timer, that of a LOST port makes it LATE, and that of a READY
car's PRESENT port holds the countdown (R143, R137). -/
theorem test_third_error :
    (∀ x ∈ [(Presence.late, SilenceTimer.second 100), (.lost, .stopped)],
      let s := after (.badLengthFrame 0) ((held true).modifyPort 0 fun c =>
        { c with presence := x.1, silence := x.2 })
      (s.port 0).fenced = true ∧ (s.port 0).presence = .late ∧
      (s.port 0).silence = if x.1 = .late then .second 100 else .second 2750) ∧
    (after (.badLengthFrame 0) (countdown.modifyPort 0 fun c =>
      { c with errorRecord := some ⟨.badField, none, 0, true⟩ })).race.holdSlot = some 100 := by
  decide +kernel

/-- A PRESENT port out of a race, with a RACING car, and with a READY car in COUNTDOWN; a LATE one; a DOWN
link. -/
theorem meets_LossOfSignalFlushesThePort :
    (State.reset.port 0).link = .down ∧ (idle.port 0).link = .up ∧
    (idle.port 0).presence = .present ∧ (coasting.port 0).link = .up ∧
    (coasting.port 0).presence ≠ .present ∧ (green.port 0).link = .up ∧
    (green.port 0).presence = .present ∧ green.race.phase.running = true ∧
    green.car 0 = some (onTrack 1) ∧ (onTrack 1).standing = .racing ∧
    (countdown.port 0).link = .up ∧ (countdown.port 0).presence = .present ∧
    countdown.race.phase = .countdown ∧ countdown.carState 0 = .ready := by decide +kernel

/-- A lost link coasts a RACING car and holds the countdown (R133, R137). -/
theorem test_lossOfSignal_in_a_race :
    (after (.lossOfSignal 0) green).carState 0 = .coasting ∧
    ((after (.lossOfSignal 0) green).port 1).noticeQueue = [.carState 0 .coasting .silent] ∧
    (after (.lossOfSignal 0) countdown).race.holdSlot = some 100 ∧
    (after (.lossOfSignal 0) coasting).race = coasting.race := by decide +kernel

theorem meets_TransmitPrecedence :
    (State.reset.port 0).link = .down ∧
    (((asks 0 .nop [] idle).modifyPort 0 fun c =>
      { c with responseQueue := [.bare .nop .ok] }).port 0).responseQueue = [.bare .nop .ok] ∧
    ((idle.modifyPort 0 fun c => { c with noticeQueue := [.overflow] }).port 0).responseQueue = [] ∧
    ((idle.modifyPort 0 fun c => { c with noticeQueue := [.overflow] }).port 0).noticeQueue =
      [.overflow] ∧
    (idle.port 0).link = .up ∧ (idle.port 0).noticeQueue = [] ∧
    ((idle.modifyPort 0 fun c => { c with pushSlot := some idle.capture }).port 0).pushSlot =
      some idle.capture := by decide +kernel

theorem meets_NoticesOfferedToAPort :
    PortState.reset.link = .down ∧ PortState.reset.noticeQueue.length ≤ 16 ∧ up.link = .up ∧
    ({ up with noticeQueue := List.replicate 15 .overflow } : PortState).noticeQueue.length < 16 ∧
    ({ up with noticeQueue := List.replicate 16 .overflow } : PortState).noticeQueue.length = 16 := by
  decide +kernel

/-- A state with port 0 at the end of its first stage. -/
def silent (s : State) : State := s.modifyPort 0 fun c => { c with silence := .first 0 }

theorem meets_SilenceCoastsARacingCar :
    (∀ s ∈ [idle, forming, grid, countdown, green, results],
      ((silent s).port 0).silence = .first 0) ∧
    (silent countdown).race.phase = .countdown ∧ (silent countdown).carState 0 = .ready ∧
    (silent green).race.phase.running = true ∧
    (silent green).car 0 = some (onTrack 1) ∧ (onTrack 1).standing = .racing ∧
    ((silent green).port 0).fenced = false := by decide +kernel

/-- Where silence has no effect on the race, the race stays (R137). -/
theorem test_silence_without_effect :
    ∀ s ∈ [idle, forming, grid, results], after (.silenceFirstStageExpiry 0) (silent s) =
      s.modifyPort 0 fun c => { c with presence := .late, silence := .second 2750 } := by
  decide +kernel

/-- A state with port 0 at the end of its second stage. -/
def silenced (s : State) : State := s.modifyPort 0 fun c =>
  { c with presence := .late, silence := .second 0 }

theorem meets_LongSilenceRetiresACoastingCar :
    (∀ s ∈ [idle, forming, grid, heldCountdown, coasting, results],
      ((silenced s).port 0).silence = .second 0) ∧
    (coasting.port 0).silence = .second 0 ∧ coasting.race.phase.running = true ∧
    coasting.car 0 = some { onTrack 1 with standing := .coasting } ∧
    coasting.car 1 = some (onTrack 2) ∧ (onTrack 2).standing.running = true ∧
    2 * (coasting.dropVote 0).voteCount ≤ coasting.eligibleCount - 1 := by decide +kernel

/-- A LOST port in each phase: handover, the last READY, a hold that ends, the release and the last
release (R139). -/
theorem test_lost_in_every_phase :
    (after (.silenceSecondStageExpiry 0) (silenced forming)).race.opener = some 1 ∧
    (after (.silenceSecondStageExpiry 0) (silenced grid)).race.phase = .countdown ∧
    (after (.silenceSecondStageExpiry 0) (silenced heldCountdown)).race.countdown = some 40 ∧
    (after (.silenceSecondStageExpiry 0) (silenced results)).race.releaseSet.get 0 = true ∧
    (after (.silenceSecondStageExpiry 0) (silenced released)).race.phase = .idle := by decide +kernel

theorem meets_CountdownHoldsAndResumes :
    ((silent countdown).port 0).silence = .first 0 ∧ (silent countdown).race.phase = .countdown ∧
    (silent countdown).carState 0 = .ready ∧ (silent countdown).race.holdSlot = none ∧
    (silent countdown).race.countdown = some 100 ∧
    (heldCountdown.port 0).fenced = false ∧ (heldCountdown.port 0).presence = .late ∧
    heldCountdown.race.phase = .countdown ∧ heldCountdown.carState 0 = .ready ∧
    heldCountdown.race.holdSlot = some 40 ∧
    (∀ q : Port, q ≠ 0 → heldCountdown.carState q = .ready →
      (heldCountdown.port q).presence ≠ .late) ∧
    RequestKind.report.lengthAllowed [0, 0, 0, 0] = true := by decide +kernel

theorem meets_EntryWindowExpiry :
    ∀ s ∈ [forming, formingAlone],
      ({ s with race := { s.race with entryWindow := some 30000 } } : State).race.phase = .forming ∧
      ({ s with race := { s.race with entryWindow := some 30000 } } : State
        ).race.settings.entryWindow ≤ 30000 ∧
      (s.course ≠ none ↔ s = forming) := by decide +kernel

/-- The end of the grid wait, with car 1 READY and with none. -/
theorem meets_GridWaitExpiry :
    let s : State := { grid with race := { grid.race with gridWait := some 0 } }
    let t : State := { gridUnready with race := { grid.race with gridWait := some 0 } }
    (s.race.phase = .grid ∧ s.race.gridWait = some 0 ∧ s.RaceSound ∧
      ∃ q : Port, s.carState q = .ready) ∧
    (t.race.phase = .grid ∧ t.race.gridWait = some 0 ∧ t.RaceSound ∧
      ∀ q : Port, t.carState q ≠ .ready) := by
  refine ⟨⟨rfl, rfl, ?_, by decide +kernel⟩, rfl, rfl, ?_, by decide +kernel⟩
  all_goals
    constructor
    case standings => exact forall_cars (by decide +kernel)
    case votes => exact fun p h => absurd h (by revert p; decide +kernel)
    all_goals decide +kernel

/-- The end of the grid wait tells of the withdrawal, of the place gained and the lead, and of the
COUNTDOWN, or of the race dissolved (R28, R52, R27). -/
theorem test_grid_wait_is_told :
    let s := after .gridWaitExpiry { grid with race := { grid.race with gridWait := some 0 } }
    let t := after .gridWaitExpiry { gridUnready with race := { grid.race with gridWait := some 0 } }
    (s.port 1).noticeQueue = [.entry 0 .withdrawn .readyMissed 1, .position 1, .leader 1,
      .phase (.changed .countdown .none) 1] ∧
    s.car 1 = some (entryAs .ready 1) ∧
    (t.port 0).noticeQueue.getLast? = some (.phase (.changed .idle .noStarters) 1) := by decide +kernel

theorem meets_CountdownExpiryGoesGreen :
    let s : State := { countdown with race := { countdown.race with countdown := some 0 } }
    s.race.phase = .countdown ∧ s.race.countdown = some 0 ∧ s.race.holdSlot = none ∧
    s.course = some oval ∧ s.RaceSound := by
  refine ⟨rfl, rfl, rfl, rfl, ?_⟩
  constructor
  case standings => exact forall_cars (by decide +kernel)
  case votes => exact fun p h => absurd h (by revert p; decide +kernel)
  all_goals decide +kernel

theorem meets_ClosingWindowAndResultsHoldExpiries :
    let s : State := { green with race := { record .finishing with closingWindow := some 0 } }
    let t : State := { results with race := { results.race with resultsHold := some 0 } }
    s.race.phase = .finishing ∧ s.race.closingWindow = some 0 ∧
    (∃ q : Port, s.isRacePort q = true ∧ (s.port q).presence ≠ .lost) ∧
    t.race.phase = .results ∧ t.race.resultsHold = some 0 := by decide +kernel

/-- Nothing is due in GREEN, one tick before the race limit or earlier. -/
theorem green_nothingDue (clock : Nat) (h : clock = 100 ∨ clock = 599998 ∨ clock = 599999) :
    ({ green with raceClock := clock } : State).NothingDue := by
  rcases h with rfl | rfl | rfl <;> constructor <;> decide +kernel

theorem meets_RaceLimitEntersResults :
    let s : State := { green with raceClock := 599999 }
    s.NothingDue ∧ s.race.phase.running = true ∧ s.raceClock + 1 = s.race.settings.raceLimit ∧
    ∃ q : Port, s.isRacePort q = true ∧ (s.port q).presence ≠ .lost :=
  ⟨green_nothingDue _ (by decide), by decide +kernel⟩

theorem meets_VoteAndPushTimerExpiries :
    let s : State := { voted with raceClock := 10050 }
    s.race.phase.running = true ∧ s.race.votes.get 1 = some 50 ∧ 50 + 10000 ≤ s.raceClock ∧
    ((green.modifyPort 0 fun c => { c with pushInterval := 16, pushTimer := some 0 }).port 0).pushTimer =
      some 0 := by decide +kernel

theorem meets_TickCountsOneMillisecond :
    let s : State := { green with raceClock := 599998 }
    s.NothingDue ∧ ¬(s.race.phase.running = true ∧ s.race.settings.raceLimit ≤ s.raceClock + 1) :=
  ⟨green_nothingDue _ (by decide), by decide +kernel⟩

end Sys2Proof.Tests
end

section
/-! PROOF. Course definitions (R3, R5): what the check of a definition accepts, and where the gates of a
sound course lie. -/
namespace Sys2Proof.Machine

/-! ### The conditions of R3 -/

/-- The check that each distance exceeds the one before it puts every pair in order. -/
theorem increasing_iff (l : List Nat) : increasing l = true ↔ l.Pairwise (· < ·) := by
  rw [← List.isChain_iff_pairwise]
  induction l with
  | nil => simp [increasing]
  | cons a rest ih =>
    cases rest with
    | nil => simp [increasing]
    | cons b rest => simp [increasing, ih]

/-- The check of a definition accepts exactly the conditions of R3. -/
theorem validDefinition_iff (lapLength : Nat) (gates : List GateEntry) :
    validDefinition lapLength gates = true ↔
      (1000 ≤ lapLength ∧ lapLength ≤ 4000000) ∧ (1 ≤ gates.length ∧ gates.length ≤ 32) ∧
      gates.head? = some ⟨0, .line⟩ ∧ (∀ g ∈ gates.tail, g.kind ≠ .line) ∧
      (∀ g ∈ gates, g.distance < lapLength) ∧ (gates.map GateEntry.distance).Pairwise (· < ·) := by
  simp only [validDefinition, Bool.and_eq_true, decide_eq_true_iff, beq_iff_eq, List.all_eq_true,
    increasing_iff, and_assoc]

/-- A payload defines a course exactly when its gate entries have kinds of Table 1.2 and the definition is
valid; the course is then that definition with the check value over the payload (R3, R5). -/
theorem courseOf_eq_some_iff (payload : List Byte) (c : Course) : courseOf payload = some c ↔
    ∃ gates : List GateEntry, gateEntries (payload.drop 5) = some gates ∧
      c = ⟨wordAt payload 0, gates, courseCheck payload⟩ ∧
      validDefinition (wordAt payload 0) gates = true := by
  unfold courseOf
  cases gateEntries (payload.drop 5) with
  | none => simp
  | some gates =>
    simp only [Option.some.injEq, Option.ite_none_right_eq_some]
    constructor
    · rintro ⟨valid, rfl⟩
      exact ⟨gates, rfl, rfl, valid⟩
    · rintro ⟨_, rfl, rfl, valid⟩
      exact ⟨valid, rfl⟩

/-- Settles O16: a payload is accepted exactly when its definition meets R3. -/
theorem courseDefinitionsAreChecked : Obligations.CourseDefinitionsAreChecked := by
  intro payload c
  rw [courseOf_eq_some_iff]
  refine exists_congr fun gates => and_congr_right fun _ => and_congr_right fun same => ?_
  rw [validDefinition_iff, same]

/-! ### The gates of a sound course -/

/-- A course that a LOAD_COURSE payload defines is sound (R3). -/
theorem courseOf_sound {payload : List Byte} {c : Course} (h : courseOf payload = some c) : c.Sound := by
  obtain ⟨gates, -, rfl, valid⟩ := (courseOf_eq_some_iff payload c).mp h
  exact valid

/-- A lap has a length (R3). -/
theorem Course.Sound.lapLength_pos {course : Course} (sound : course.Sound) : 0 < course.lapLength := by
  obtain ⟨⟨least, -⟩, -⟩ := (validDefinition_iff _ _).mp sound
  omega

/-- Gate 0 stands on the line (R3). -/
theorem Course.Sound.gateDistance_zero {course : Course} (sound : course.Sound) :
    course.gateDistance 0 = 0 := by
  obtain ⟨-, -, head, -⟩ := (validDefinition_iff _ _).mp sound
  unfold Course.gateDistance
  rw [← List.head?_eq_getElem?, head]

/-- Every gate stands less than one lap from the line (R3). -/
theorem Course.Sound.gateDistance_lt {course : Course} (sound : course.Sound) (index : Nat) :
    course.gateDistance index < course.lapLength := by
  obtain ⟨-, -, -, -, within, -⟩ := (validDefinition_iff _ _).mp sound
  unfold Course.gateDistance
  cases entry : course.gates[index]? with
  | none => exact sound.lapLength_pos
  | some g => exact within g (List.mem_of_getElem? entry)

/-- The gates stand further from the line in the order of their indices (R3). -/
theorem Course.Sound.gateDistance_lt_gateDistance {course : Course} (sound : course.Sound) {i j : Nat}
    (less : i < j) (inside : j < course.gates.length) :
    course.gateDistance i < course.gateDistance j := by
  obtain ⟨-, -, -, -, -, ordered⟩ := (validDefinition_iff _ _).mp sound
  unfold Course.gateDistance
  rw [List.getElem?_eq_getElem inside, List.getElem?_eq_getElem (less.trans inside)]
  have pairs := List.pairwise_iff_getElem.mp ordered i j
  simp only [List.length_map, List.getElem_map] at pairs
  exact pairs (less.trans inside) inside less

/-- The gate after the last lap stands at the finish distance (R9). -/
theorem Course.Sound.position_last {course : Course} (sound : course.Sound) (laps : Nat) :
    course.position ⟨laps + 1, 0⟩ = course.finish laps := by
  simp [Course.position, Course.finish, sound.gateDistance_zero]

/-- No gate of the chain stands beyond the finish distance (R9, R10). -/
theorem Course.Sound.position_le_finish {course : Course} (sound : course.Sound) {laps : Nat} {g : Gate}
    (on : course.OnChain laps g) : course.position g ≤ course.finish laps := by
  rcases on with ⟨one, most, -⟩ | rfl
  · have within := sound.gateDistance_lt g.index
    calc course.position g ≤ (g.lap - 1 + 1) * course.lapLength := by
          unfold Course.position; rw [Nat.add_mul]; omega
      _ ≤ course.finish laps := Nat.mul_le_mul_right _ (by omega)
  · exact (sound.position_last laps).le

/-- The chain ends at its last gate alone (R10). -/
theorem Course.next_eq_none_iff {course : Course} {laps : Nat} {g : Gate}
    (on : course.OnChain laps g) : course.next laps g = none ↔ g = ⟨laps + 1, 0⟩ := by
  unfold Course.next
  constructor
  · intro none
    rcases on with ⟨-, most, -⟩ | last
    · rw [if_neg (by omega)] at none
      split at none <;> exact absurd none (by simp)
    · exact last
  · rintro rfl
    exact if_pos rfl

/-- The next gate of the chain stands further on (R8, R10). -/
theorem Course.Sound.position_lt_next {course : Course} (sound : course.Sound) {laps : Nat} {g h : Gate}
    (on : course.OnChain laps g) (next : course.next laps g = some h) :
    course.position g < course.position h := by
  unfold Course.next at next
  split at next
  · exact absurd next (by simp)
  · next here =>
    split at next
    · next more =>
      obtain rfl := Option.some.inj next
      exact Nat.add_lt_add_left (sound.gateDistance_lt_gateDistance (Nat.lt_succ_self _) more) _
    · obtain rfl := Option.some.inj next
      have lap : 1 ≤ g.lap := by
        rcases on with ⟨one, -⟩ | rfl
        · exact one
        · exact absurd rfl here
      have within := sound.gateDistance_lt g.index
      calc course.position g < (g.lap - 1 + 1) * course.lapLength := by
            unfold Course.position; rw [Nat.add_mul]; omega
        _ = course.position ⟨g.lap + 1, 0⟩ := by
            simp [Course.position, sound.gateDistance_zero, Nat.sub_add_cancel lap]

end Sys2Proof.Machine
end

section
/-! PROOF. The distances that every step keeps (R77): what one car keeps through a report, and which changes
of the state keep the bounds of every car. -/
namespace Sys2Proof.Machine

/-! ### One car (R77 to R79) -/

/-- Two cars whose D, gates and laps are the same, and of which both are FINISHED or neither. -/
structure Car.SameProgress (c d : Car) : Prop where
  finished : d.standing.isFinished = c.standing.isFinished
  distance : d.distance = c.distance
  floorGate : d.floorGate = c.floorGate
  nextGate : d.nextGate = c.nextGate
  laps : d.laps = c.laps

theorem Car.SameProgress.refl (c : Car) : c.SameProgress c := ⟨rfl, rfl, rfl, rfl, rfl⟩

theorem Car.SameProgress.trans {c d e : Car} (h : c.SameProgress d) (k : d.SameProgress e) :
    c.SameProgress e :=
  ⟨k.finished.trans h.finished, k.distance.trans h.distance, k.floorGate.trans h.floorGate,
    k.nextGate.trans h.nextGate, k.laps.trans h.laps⟩

/-- The bounds of R77 speak of a car's progress alone. -/
theorem Car.DistanceSound.of_sameProgress {course : Course} {laps : Nat} {c d : Car}
    (h : c.DistanceSound course laps) (same : c.SameProgress d) : d.DistanceSound course laps := by
  constructor
  · rw [same.floorGate, same.distance]; exact h.floor
  · rw [same.distance]; exact h.finish
  · rw [same.nextGate, same.floorGate]; exact h.next
  · rw [same.nextGate, same.distance]; exact h.below
  · rw [same.floorGate]; exact h.gate
  · rw [same.finished, same.distance]; exact h.finished
  · rw [same.laps, same.floorGate]; exact h.laps

/-- A car that is not FINISHED has not reached F. -/
theorem Car.DistanceSound.lt_finish {course : Course} {laps : Nat} {c : Car}
    (h : c.DistanceSound course laps) (runs : c.standing.isFinished = false) :
    c.distance < course.finish laps := by
  refine Nat.lt_of_le_of_ne h.finish fun reached => ?_
  rw [h.finished.mpr reached] at runs
  exact absurd runs (by decide)

/-- A READY car at the green is within the bounds: it stands at D 0 on gate (1, 0) (R30). -/
theorem Car.DistanceSound.start {course : Course} {laps : Nat} {c : Car} (sound : course.Sound)
    (some : 1 ≤ laps) (ready : c.standing = .ready) (fresh : c.laps = []) :
    (c.start (course.next laps startGate)).DistanceSound course laps := by
  have on : course.OnChain laps startGate := .inl ⟨le_refl 1, some, sound.gates⟩
  have line : course.position startGate = 0 := by
    simp [Course.position, startGate, sound.gateDistance_zero]
  have ahead : 0 < course.finish laps := Nat.mul_pos some sound.lapLength_pos
  unfold Car.start
  rw [if_pos ready]
  constructor
  · exact line.le
  · exact Nat.zero_le _
  · rfl
  · intro g next
    rw [← line]
    exact sound.position_lt_next on next
  · exact on
  · simp [Standing.isFinished, ahead.ne]
  · simp [fresh, startGate]

/-- A car that is not FINISHED and falls back, no further than its floor, stays within the bounds
(R73). -/
theorem Car.DistanceSound.back {course : Course} {laps : Nat} {c : Car} {delta : Int}
    (h : c.DistanceSound course laps) (runs : c.standing.isFinished = false) (back : delta < 0) :
    (c.reverse (course.position c.floorGate) delta).DistanceSound course laps := by
  have floor := h.floor
  have moved : course.position c.floorGate ≤
        (c.reverse (course.position c.floorGate) delta).distance ∧
      (c.reverse (course.position c.floorGate) delta).distance ≤ c.distance := by
    unfold Car.reverse
    dsimp only
    split
    · exact ⟨le_refl _, floor⟩
    · next free => simp only [decide_eq_true_iff] at free; omega
  have short := h.lt_finish runs
  constructor
  · exact moved.1
  · omega
  · exact h.next
  · exact fun g next => moved.2.trans_lt (h.below g next)
  · exact h.gate
  · show c.standing.isFinished = true ↔ _
    rw [runs]
    constructor
    · intro done; exact absurd done (by decide)
    · intro done; omega
  · exact h.laps

/-- Each line crossed along the chain is one lap: the lap times count the laps between the floor gates
(R78, R79). -/
theorem lapTimes_length {course : Course} {laps now : Nat} :
    ∀ (gates : List Gate) (floor : Gate) (last : Nat), course.IsChain laps floor gates →
      (lapTimes now last gates).length + floor.lap = (gates.getLastD floor).lap := by
  intro gates
  induction gates with
  | nil => intro floor last _; simp [lapTimes]
  | cons g rest ih =>
    rintro floor last ⟨next, chain⟩
    have later := fun last => ih g last chain
    have step : (g.index = 0 ∧ g.lap = floor.lap + 1) ∨ (g.index ≠ 0 ∧ g.lap = floor.lap) := by
      unfold Course.next at next
      split at next
      · exact absurd next (by simp)
      · split at next <;> obtain rfl := Option.some.inj next
        · exact .inr ⟨Nat.succ_ne_zero _, rfl⟩
        · exact .inl ⟨rfl, rfl⟩
    rw [List.getLastD_cons, ← later now]
    rcases step with ⟨line, lap⟩ | ⟨inner, lap⟩
    · rw [lapTimes, if_pos line, List.length_cons, lap]
      omega
    · rw [lapTimes, if_neg inner, ← lap, later last, later now]

/-- A car that has not finished, moves ahead no further than F, and crosses the gates it reaches is within the
bounds again (R75, R78 to R81). -/
theorem Car.DistanceSound.forward_cross {course : Course} {laps now : Nat} {c : Car} {delta : Int}
    {gates : List Gate} (sound : course.Sound) (h : c.DistanceSound course laps)
    (runs : c.standing.isFinished = false) (chain : course.IsChain laps c.floorGate gates)
    (reached : ∀ g ∈ gates, course.position g ≤ (c.forward (course.finish laps) delta).distance)
    (on : course.OnChain laps (gates.getLastD c.floorGate))
    (beyond : ∀ g, course.next laps (gates.getLastD c.floorGate) = some g →
      (c.forward (course.finish laps) delta).distance < course.position g) :
    ((c.forward (course.finish laps) delta).cross course laps now gates).DistanceSound course laps := by
  have within := h.finish
  have farther : c.distance ≤ (c.forward (course.finish laps) delta).distance := by
    show c.distance ≤ min _ _
    omega
  have capped : (c.forward (course.finish laps) delta).distance ≤ course.finish laps :=
    Nat.min_le_right _ _
  have finished : ((c.forward (course.finish laps) delta).cross course laps now
      gates).standing.isFinished = decide ((⟨laps + 1, 0⟩ : Gate) ∈ gates) := by
    unfold Car.cross
    by_cases last : (⟨laps + 1, 0⟩ : Gate) ∈ gates
    · simp [last, Standing.isFinished]
    · simp only [if_neg last, decide_eq_false last]
      exact runs
  constructor
  · show course.position (gates.getLastD c.floorGate) ≤ _
    rcases List.eq_nil_or_concat gates with rfl | ⟨before, g, rfl⟩
    · exact h.floor.trans farther
    · rw [List.concat_eq_append, List.getLastD_concat]
      exact reached g (by simp)
  · exact capped
  · rfl
  · exact beyond
  · exact on
  · rw [finished, decide_eq_true_iff]
    show _ ↔ (c.forward (course.finish laps) delta).distance = course.finish laps
    constructor
    · intro last
      have line := reached _ last
      rw [sound.position_last] at line
      omega
    · intro arrived
      have ends : gates.getLastD c.floorGate = ⟨laps + 1, 0⟩ := by
        rw [← Course.next_eq_none_iff on]
        refine Option.eq_none_iff_forall_ne_some.mpr fun g next => ?_
        have short := beyond g next
        have inside := sound.position_le_finish (Course.next_onChain sound.gates on next).1
        omega
      rcases List.eq_nil_or_concat gates with rfl | ⟨before, g, rfl⟩
      · have stood := h.floor
        rw [show c.floorGate = _ from ends, sound.position_last] at stood
        have short := h.lt_finish runs
        omega
      · rw [List.concat_eq_append, List.getLastD_concat] at ends
        simp [ends]
  · have before := h.laps
    have count := lapTimes_length (now := now) gates c.floorGate c.lastLine chain
    show (c.laps ++ lapTimes now c.lastLine gates).length + 1 = (gates.getLastD c.floorGate).lap
    rw [List.length_append]
    omega

end Sys2Proof.Machine
end

section
/-! PROOF. The bounds of every car through the shared operations of the race and of the supervisors. -/
namespace Sys2Proof.Machine

/-! ### Changes that keep the distances -/

theorem State.OnlyNotices.race {s t : State} (h : s.OnlyNotices t) : t.race = s.race := by rw [h.rest]

theorem State.OnlyNotices.course {s t : State} (h : s.OnlyNotices t) : t.course = s.course := by
  rw [h.rest]

theorem State.OnlyNotices.car {s t : State} (h : s.OnlyNotices t) (q : Port) : t.car q = s.car q := by
  rw [h.rest]; rfl

/-- The course, the settings and the side of the green are the same, and every car that is there has the
progress it had. -/
structure State.KeepsDistances (s t : State) : Prop where
  course : t.course = s.course
  settings : t.race.settings = s.race.settings
  green : t.race.phase.afterGreen = s.race.phase.afterGreen
  cars : ∀ (p : Port) (d : Car), t.car p = some d → ∃ c : Car, s.car p = some c ∧ c.SameProgress d

theorem State.KeepsDistances.trans {s t u : State} (h : s.KeepsDistances t) (k : t.KeepsDistances u) :
    s.KeepsDistances u where
  course := k.course.trans h.course
  settings := k.settings.trans h.settings
  green := k.green.trans h.green
  cars := fun p e car => by
    obtain ⟨d, car, later⟩ := k.cars p e car
    obtain ⟨c, car, sooner⟩ := h.cars p d car
    exact ⟨c, car, sooner.trans later⟩

/-- With the same cars, course and settings on the same side of the green the distances are kept. -/
theorem State.keepsDistances_of_cars {s t : State} (course : t.course = s.course)
    (settings : t.race.settings = s.race.settings)
    (green : t.race.phase.afterGreen = s.race.phase.afterGreen) (cars : t.cars = s.cars) :
    s.KeepsDistances t :=
  ⟨course, settings, green, fun p d car => ⟨d, by rw [State.car, ← cars]; exact car, .refl d⟩⟩

theorem State.KeepsDistances.refl (s : State) : s.KeepsDistances s :=
  State.keepsDistances_of_cars rfl rfl rfl rfl

theorem State.OnlyNotices.keepsDistances {s t : State} (h : s.OnlyNotices t) : s.KeepsDistances t :=
  State.keepsDistances_of_cars h.course (by rw [h.race]) (by rw [h.race]) (by rw [h.rest])

/-- What keeps the distances and then raises notices keeps the distances. -/
theorem State.OnlyNotices.keepsDistances_after {s t u : State} (h : t.OnlyNotices u)
    (k : s.KeepsDistances t) : s.KeepsDistances u := k.trans h.keepsDistances

theorem State.modifyPort_keepsDistances (s : State) (p : Port) (f : PortState → PortState) :
    s.KeepsDistances (s.modifyPort p f) :=
  State.keepsDistances_of_cars rfl rfl rfl rfl

theorem State.modifyRace_keepsDistances {s : State} {f : RaceRecord → RaceRecord}
    (settings : (f s.race).settings = s.race.settings)
    (green : (f s.race).phase.afterGreen = s.race.phase.afterGreen) :
    s.KeepsDistances (s.modifyRace f) :=
  State.keepsDistances_of_cars rfl settings green rfl

theorem State.modifyCar_keepsDistances {s : State} {p : Port} {f : Car → Car}
    (same : ∀ c, s.car p = some c → c.SameProgress (f c)) : s.KeepsDistances (s.modifyCar p f) where
  course := rfl
  settings := rfl
  green := rfl
  cars := fun q d car => by
    by_cases e : q = p
    · subst e
      rw [State.modifyCar_car_self] at car
      obtain ⟨c, own, rfl⟩ := Option.map_eq_some_iff.mp car
      exact ⟨c, own, same c own⟩
    · rw [State.modifyCar_car_ne _ _ e] at car
      exact ⟨d, car, .refl d⟩

/-- Whatever keeps the distances keeps their bounds. -/
theorem State.KeepsDistances.sound {s t : State} (k : s.KeepsDistances t) (h : s.DistancesSound) :
    t.DistancesSound where
  course := by rw [k.course]; exact h.course
  settings := by rw [k.settings]; exact h.settings
  cars := fun after course loaded p d car => by
    obtain ⟨c, car, same⟩ := k.cars p d car
    rw [k.green] at after
    rw [k.course] at loaded
    rw [k.settings]
    exact (h.cars after course loaded p c car).of_sameProgress same
  grid := fun before p d car => by
    obtain ⟨c, car, same⟩ := k.cars p d car
    rw [k.green] at before
    rw [same.distance, same.floorGate, same.laps]
    exact h.grid before p c car

/-- Before the green the bounds ask for a sound course, settings in range, and cars at their start values. -/
theorem State.DistancesSound.of_before {s : State} (before : s.race.phase.afterGreen = false)
    (course : ∀ c : Course, s.course = some c → c.Sound) (settings : s.race.settings.Sound)
    (grid : ∀ (p : Port) (c : Car), s.car p = some c →
      c.distance = 0 ∧ c.floorGate = startGate ∧ c.laps = []) : s.DistancesSound where
  course := course
  settings := settings
  cars := fun after => absurd (before.symm.trans after) (by decide)
  grid := fun _ => grid

/-! ### Settings (Table 2.3) -/

/-- A race has at least one lap. -/
theorem Settings.Sound.laps_pos {x : Settings} (h : x.Sound) : 1 ≤ x.laps := (h 0 (by decide)).1

/-- The countdown lasts at least 1,000 ms. -/
theorem Settings.Sound.countdownLength_pos {x : Settings} (h : x.Sound) : 1000 ≤ x.countdownLength :=
  (h 1 (by decide)).1

theorem Settings.default_sound : Settings.default.Sound := by
  unfold Settings.Sound
  decide

/-- Settings taken from a SET_RULES that passes its check stay in their ranges (R19, R20). -/
theorem Settings.Sound.apply {x : Settings} {payload : List Byte} (h : x.Sound)
    (checked : rulesInRange payload = true) : (x.apply payload).Sound := by
  intro i small
  have pick : (x.apply payload).values.getD i 0 =
      if (rulesMask payload).testBit i then rulesValue payload i else x.values.getD i 0 := by
    interval_cases i <;> rfl
  rw [pick]
  split
  · next selected =>
    have checked := List.all_eq_true.mp checked i (List.mem_range.mpr small)
    rw [selected] at checked
    simpa using checked
  · exact h i small

/-! ### The phases -/

theorem State.DistancesSound.returnToIdle {s : State} (reason : Reason) (h : s.DistancesSound) :
    (s.returnToIdle reason).DistancesSound := by
  have back := State.returnToIdle_spec reason s
  refine .of_before (by rw [back.race]; rfl) ?_ (by rw [back.race]; exact h.settings) ?_
  · rw [back.course]; simp
  · intro p c car
    rw [back.cars] at car
    exact absurd car (by simp)

theorem State.enterGrid_keepsDistances {s : State} (before : s.race.phase.afterGreen = false) :
    s.KeepsDistances s.enterGrid :=
  (State.notifyPhase_only _ _).keepsDistances_after (State.modifyRace_keepsDistances rfl before.symm)

theorem State.entryWindowDue_forming {s : State} (due : s.entryWindowDue = true) :
    s.race.phase = .forming := by
  unfold State.entryWindowDue at due
  exact of_decide_eq_true (Bool.and_eq_true_iff.mp due).1

theorem State.DistancesSound.entryWindowExpiry {s : State} (h : s.DistancesSound) :
    s.entryWindowExpiry.DistancesSound := by
  unfold State.entryWindowExpiry
  split
  · next due =>
    split
    · exact (State.enterGrid_keepsDistances (by rw [State.entryWindowDue_forming due]; rfl)).sound h
    · exact h.returnToIdle _
  · exact h

theorem State.enterCountdown_keepsDistances {s : State} (before : s.race.phase.afterGreen = false) :
    s.KeepsDistances s.enterCountdown :=
  s.enterCountdown_only.keepsDistances_after (State.modifyRace_keepsDistances rfl before.symm)

theorem State.holdTest_keepsDistances (s : State) : s.KeepsDistances s.holdTest := by
  obtain ⟨slot, timer, only⟩ := s.holdTest_only
  exact (State.modifyRace_keepsDistances rfl rfl).trans only.keepsDistances

theorem State.DistancesSound.gridTests {s : State} (h : s.DistancesSound) (grid : s.race.phase = .grid) :
    s.gridTests.DistancesSound := by
  unfold State.gridTests
  split_ifs
  · exact h.returnToIdle _
  · exact (State.enterCountdown_keepsDistances (by rw [grid]; rfl)).sound h
  · exact h

theorem State.DistancesSound.countdownTests {s : State} (h : s.DistancesSound) :
    s.countdownTests.DistancesSound := by
  unfold State.countdownTests
  split_ifs
  · exact h.returnToIdle _
  · exact s.holdTest_keepsDistances.sound h

theorem State.DistancesSound.handover {s : State} (h : s.DistancesSound) :
    s.handover.DistancesSound := by
  unfold State.handover
  split
  · exact ((State.modifyRace_keepsDistances rfl rfl).trans
      (State.notifyPhase_only _ _).keepsDistances).sound h
  · exact h.returnToIdle _

/-! ### Withdrawals (R52) -/

theorem State.withdraw_keepsDistances (s : State) (p : Port) (reason : Reason) :
    s.KeepsDistances (s.withdraw p reason) := by
  cases car : s.car p with
  | none => rw [State.withdraw_none reason car]; exact .refl s
  | some c =>
    have gone := State.withdraw_spec reason car
    have rest := gone.rest
    refine ⟨by rw [rest], by rw [rest], by rw [rest], fun q d there => ?_⟩
    by_cases e : q = p
    · rw [e, gone.gone] at there
      exact absurd there (by simp)
    · rw [gone.others q e] at there
      obtain ⟨b, stood, rfl⟩ := Option.map_eq_some_iff.mp there
      exact ⟨b, stood, by split <;> exact ⟨rfl, rfl, rfl, rfl, rfl⟩⟩

theorem State.withdraw_race (s : State) (p : Port) (reason : Reason) :
    (s.withdraw p reason).race = s.race := by
  cases car : s.car p with
  | none => rw [State.withdraw_none reason car]
  | some c => rw [(State.withdraw_spec reason car).rest]

theorem State.withdrawEach_keepsDistances (reason : Reason) (l : List Port) (s : State) :
    s.KeepsDistances (s.withdrawEach l reason) ∧ (s.withdrawEach l reason).race = s.race := by
  induction l generalizing s with
  | nil => exact ⟨.refl s, rfl⟩
  | cons p rest ih =>
    obtain ⟨keeps, race⟩ := ih (s.withdraw p reason)
    exact ⟨(s.withdraw_keepsDistances p reason).trans keeps, race.trans (s.withdraw_race p reason)⟩

theorem State.DistancesSound.withdrawAndTest {s : State} (h : s.DistancesSound) (p : Port)
    (reason : Reason) : (s.withdrawAndTest p reason).DistancesSound := by
  have left := (s.withdraw_keepsDistances p reason).sound h
  unfold State.withdrawAndTest
  dsimp only
  split
  · split
    · exact left.handover
    · exact left
  · next grid => exact left.gridTests grid
  · exact left.countdownTests
  all_goals exact left

/-! ### The green (R30) -/

theorem State.DistancesSound.enterGreen {s : State} (h : s.DistancesSound)
    (before : s.race.phase.afterGreen = false)
    (ready : ∀ (p : Port) (c : Car), s.car p = some c → c.standing = .ready) :
    s.enterGreen.DistancesSound := by
  unfold State.enterGreen
  refine (State.notifyPhase_only _ _).keepsDistances.sound ⟨h.course, h.settings, ?_, ?_⟩
  · intro _ course (loaded : s.course = some course) p d car
    have started : (s.car p).map (Car.start (s.nextGate startGate)) = some d := by
      simpa [State.car] using car
    obtain ⟨c, stood, rfl⟩ := Option.map_eq_some_iff.mp started
    have next : s.nextGate startGate = course.next s.race.settings.laps startGate := by
      unfold State.nextGate
      rw [loaded]
    obtain ⟨-, -, fresh⟩ := h.grid before p c stood
    rw [next]
    exact .start (h.course course loaded) h.settings.laps_pos (ready p c stood) fresh
  · intro after
    exact absurd after (by simp [Phase.afterGreen])

/-! ### Results and release (R36, R37) -/

theorem State.DistancesSound.releaseTest {s : State} (h : s.DistancesSound) :
    s.releaseTest.DistancesSound := by
  unfold State.releaseTest
  split
  · exact h.returnToIdle _
  · exact h

theorem State.DistancesSound.release {s : State} (h : s.DistancesSound) (p : Port) :
    (s.release p).DistancesSound :=
  ((State.modifyRace_keepsDistances rfl rfl).sound h).releaseTest

/-- A running car has not finished. -/
theorem Standing.isFinished_of_running {x : Standing} (h : x.running = true) : x.isFinished = false := by
  cases x with
  | finished time => exact absurd h Bool.false_ne_true
  | entered | ready | racing | coasting | stopped | retired reason time => rfl

/-- A car in another state than FINISHED has not finished. -/
theorem Standing.isFinished_of_state {x : Standing} (h : x.state ≠ .finished) :
    x.isFinished = false := by
  cases x with
  | finished time => exact absurd rfl h
  | entered | ready | racing | coasting | stopped | retired reason time => rfl

/-- A car that stops has not finished, and keeps its progress. -/
theorem Car.stop_sameProgress (c : Car) : c.SameProgress c.stop := by
  unfold Car.stop
  split
  · next runs =>
    exact ⟨(Standing.isFinished_of_running runs).symm, rfl, rfl, rfl, rfl⟩
  · exact .refl c

theorem State.stopRace_keepsDistances {s : State} (reason : Reason)
    (after : s.race.phase.afterGreen = true) : s.KeepsDistances (s.stopRace reason) where
  course := rfl
  settings := rfl
  green := after.symm
  cars := fun p d car => by
    have stopped : (s.car p).map Car.stop = some d := by simpa [State.car, State.stopRace] using car
    obtain ⟨c, ran, rfl⟩ := Option.map_eq_some_iff.mp stopped
    exact ⟨c, ran, c.stop_sameProgress⟩

theorem State.DistancesSound.enterResults {s : State} (h : s.DistancesSound) (reason : Reason)
    (after : s.race.phase.afterGreen = true) : (s.enterResults reason).DistancesSound := by
  have opened : (s.stopRace reason).KeepsDistances ((s.stopRace reason).openResults reason) :=
    State.keepsDistances_of_cars rfl rfl rfl rfl
  exact (((State.stopRace_keepsDistances reason after).trans opened).trans
    (State.notifyPhase_only _ _).keepsDistances |>.sound h).releaseTest

theorem State.enterFinishing_keepsDistances {s : State} (after : s.race.phase.afterGreen = true) :
    s.KeepsDistances s.enterFinishing :=
  (State.notifyPhase_only _ _).keepsDistances_after (State.modifyRace_keepsDistances rfl after.symm)

theorem State.DistancesSound.endTests {s : State} (h : s.DistancesSound) (afterFinish : Bool)
    (after : s.race.phase.afterGreen = true) : (s.endTests afterFinish).DistancesSound := by
  unfold State.endTests
  split
  · exact h.enterResults _ after
  split
  · exact h.enterResults _ after
  split
  · split
    · exact h.enterResults _ after
    · exact (State.enterFinishing_keepsDistances after).sound h
  · exact h

/-! ### Votes and retirements (R54, R121) -/

theorem State.dropVote_keepsDistances (s : State) (p : Port) : s.KeepsDistances (s.dropVote p) :=
  State.modifyRace_keepsDistances rfl rfl

/-- The retirement of a car that has not finished keeps the bounds: it stands below F (R54). -/
theorem State.DistancesSound.retire {s : State} {p : Port} (h : s.DistancesSound) (reason : Reason)
    (after : s.race.phase.afterGreen = true)
    (runs : ∀ c, s.car p = some c → c.standing.isFinished = false) :
    (s.retire p reason).DistancesSound := by
  obtain ⟨t, retired, ends⟩ := State.retire_retired p reason s
  rw [ends]
  have keeps : s.KeepsDistances t := by
    refine ⟨by rw [retired.rest], by rw [retired.rest], by rw [retired.rest], fun q d there => ?_⟩
    by_cases e : q = p
    · rw [e, retired.car] at there
      obtain ⟨c, car, rfl⟩ := Option.map_eq_some_iff.mp there
      exact ⟨c, e ▸ car, (runs c car).symm, rfl, rfl, rfl, rfl⟩
    · rw [retired.others q e] at there
      exact ⟨d, there, .refl d⟩
  exact (keeps.sound h).endTests false (keeps.green.trans after)

/-! ### Presence and major errors (R131 to R143, R179) -/

/-- A running phase lies after the green. -/
theorem Phase.afterGreen_of_running {x : Phase} (h : x.running = true) : x.afterGreen = true := by
  cases x with
  | green | finishing => rfl
  | idle | forming | grid | countdown | results => exact absurd h Bool.false_ne_true

/-- A RACING car that coasts, and a coasting car that races again, keeps its progress. -/
theorem State.changeStanding_keepsDistances {s : State} {p : Port} {x : Standing} (n : Notice)
    (before : s.carState p ≠ .finished) (now : x.isFinished = false) :
    s.KeepsDistances ((s.modifyCar p fun c => { c with standing := x }).notifyRace n) := by
  refine (State.notifyRace_only _ _).keepsDistances_after
    (State.modifyCar_keepsDistances fun c car => ⟨?_, rfl, rfl, rfl, rfl⟩)
  rw [State.carState_of car] at before
  exact now.trans (Standing.isFinished_of_state before).symm

theorem State.lateEffects_keepsDistances (s : State) (p : Port) (reason : Reason) :
    s.KeepsDistances (s.lateEffects p reason) := by
  unfold State.lateEffects
  split_ifs with running racing
  · exact State.changeStanding_keepsDistances _ (by rw [racing]; decide) rfl
  · exact .refl s
  · exact s.holdTest_keepsDistances
  · exact .refl s

theorem State.returnEffects_keepsDistances (s : State) (p : Port) :
    s.KeepsDistances (s.returnEffects p) := by
  unfold State.returnEffects
  split_ifs with running coasting
  · exact State.changeStanding_keepsDistances _ (by rw [coasting]; decide) rfl
  · exact .refl s
  · exact s.holdTest_keepsDistances
  · exact .refl s

theorem State.goLate_keepsDistances (s : State) (p : Port) (reason : Reason) :
    s.KeepsDistances (s.goLate p reason) :=
  (s.modifyPort_keepsDistances p _).trans (State.lateEffects_keepsDistances _ p reason)

theorem State.becomePresent_keepsDistances (s : State) (p : Port) :
    s.KeepsDistances (s.becomePresent p) := by
  have heard := s.modifyPort_keepsDistances p fun c =>
    { c with presence := .present, silence := .first firstStageLength }
  unfold State.becomePresent
  dsimp only
  split
  · exact heard.trans (State.returnEffects_keepsDistances _ p)
  · exact heard

theorem State.DistancesSound.lostEffects {s : State} (h : s.DistancesSound) (p : Port) :
    (s.lostEffects p).DistancesSound := by
  unfold State.lostEffects
  cases phase : s.race.phase with
  | idle => exact h
  | forming | grid | countdown =>
    dsimp only
    split
    · exact h.withdrawAndTest p _
    · exact h
  | green | finishing =>
    dsimp only
    split
    · next coasting =>
      refine h.retire _ (by rw [phase]; rfl) fun c car => ?_
      rw [State.carState_of car] at coasting
      exact Standing.isFinished_of_state (by rw [coasting]; decide)
    · exact h
  | results =>
    dsimp only
    split
    · exact h.release p
    · exact h

theorem State.DistancesSound.becomeLost {s : State} (h : s.DistancesSound) (p : Port) :
    (s.becomeLost p).DistancesSound :=
  ((s.modifyPort_keepsDistances p _).sound h).lostEffects p

theorem State.fence_keepsDistances (s : State) (p : Port) : s.KeepsDistances (s.fence p) := by
  have fenced := s.modifyPort_keepsDistances p fun c => { c with fenced := true }
  unfold State.fence
  dsimp only
  cases (s.port p).presence with
  | present | lost => exact fenced.trans (State.goLate_keepsDistances _ p _)
  | late | absent => exact fenced

theorem State.majorError_keepsDistances (s : State) (p : Port) (kind : ErrorKind) (k : Option Byte) :
    s.KeepsDistances (s.majorError p kind k) := by
  unfold State.majorError
  split
  · exact (s.modifyPort_keepsDistances p _).trans (State.notifyOwn_only _ _ _).keepsDistances
  · split_ifs
    · exact .refl s
    · exact s.fence_keepsDistances p
    · exact s.modifyPort_keepsDistances p _

theorem State.reportReserved_keepsDistances (s : State) (p : Port) (r : Request) :
    s.KeepsDistances (s.reportReserved p r) := by
  unfold State.reportReserved
  split
  · exact s.majorError_keepsDistances p _ _
  · exact .refl s

theorem State.linkDown_keepsDistances (s : State) (p : Port) : s.KeepsDistances (s.linkDown p) := by
  have dropped := s.modifyPort_keepsDistances p PortState.dropLink
  unfold State.linkDown
  dsimp only
  split
  · exact dropped.trans (State.goLate_keepsDistances _ p _)
  · exact dropped

end Sys2Proof.Machine
end

section
/-! PROOF. The bounds of every car through the full application of a REPORT (R71 to R84). -/
namespace Sys2Proof.Machine

/-! ### Pose, report times and running order -/

theorem Car.posed_sameProgress (r : Request) (c : Car) : c.SameProgress (c.posed r) :=
  ⟨rfl, rfl, rfl, rfl, rfl⟩

theorem State.storePose_keepsDistances (s : State) (p : Port) (r : Request) :
    s.KeepsDistances (s.storePose p r) := by
  rw [State.storePose_spec]
  exact State.modifyCar_keepsDistances fun c _ => c.posed_sameProgress r

theorem State.bookReport_keepsDistances (s : State) (p : Port) (now before : Nat) (order : List Port) :
    s.KeepsDistances (s.bookReport p now before order) := by
  have booked : s.KeepsDistances (s.modifyCar p fun c =>
      { c with lastReport := now
               distanceChange := if c.distance = before then c.distanceChange else now }) :=
    State.modifyCar_keepsDistances fun c _ => ⟨rfl, rfl, rfl, rfl, rfl⟩
  unfold State.bookReport
  dsimp only
  split
  · exact booked
  · split_ifs
    · exact (State.notifyMove_only _ _).keepsDistances_after
        (booked.trans (State.keepsDistances_of_cars rfl rfl rfl rfl))
    · exact booked
    · exact (State.notifyMove_only _ _).keepsDistances_after
        (booked.trans (State.keepsDistances_of_cars rfl rfl rfl rfl))

/-! ### The movement of one car -/

/-- One car is moved along the course and stands within its bounds again; the race record, the course and the
other cars are the same. -/
structure State.MovesCar (p : Port) (course : Course) (s t : State) : Prop where
  race : t.race = s.race
  loaded : t.course = s.course
  others : s.OtherCars p t
  car : ∃ d : Car, t.car p = some d ∧ d.DistanceSound course s.race.settings.laps

/-- The movement of one car over the loaded course keeps the bounds of every car. -/
theorem State.MovesCar.sound {s t : State} {p : Port} {course : Course} (m : s.MovesCar p course t)
    (h : s.DistancesSound) (loaded : s.course = some course) (after : s.race.phase.afterGreen = true) :
    t.DistancesSound where
  course := by rw [m.loaded]; exact h.course
  settings := by rw [m.race]; exact h.settings
  cars := fun _ known this q c car => by
    rw [m.loaded, loaded] at this
    obtain rfl := Option.some.inj this
    rw [m.race]
    by_cases e : q = p
    · obtain ⟨d, own, bounds⟩ := m.car
      rw [e, own] at car
      obtain rfl := Option.some.inj car
      exact bounds
    · rw [m.others q e] at car
      exact h.cars after course loaded q c car
  grid := fun before => by
    rw [m.race, after] at before
    exact absurd before (by decide)

/-- A movement that starts by a change of the car's own record. -/
theorem State.MovesCar.of_modifyCar {s t : State} {p : Port} {course : Course} {f : Car → Car}
    (m : (s.modifyCar p f).MovesCar p course t) : s.MovesCar p course t :=
  ⟨m.race, m.loaded, fun q other => (m.others q other).trans (State.modifyCar_car_ne _ _ other), m.car⟩

/-- A movement followed by notices. -/
theorem State.MovesCar.told {s t u : State} {p : Port} {course : Course} (m : s.MovesCar p course t)
    (only : t.OnlyNotices u) : s.MovesCar p course u := by
  refine ⟨only.race.trans m.race, only.course.trans m.loaded,
    fun q other => (only.car q).trans (m.others q other), ?_⟩
  rw [only.car]
  exact m.car

/-- A change of the car's own record alone that leaves the car within its bounds. -/
theorem State.modifyCar_movesCar {s : State} {p : Port} {course : Course} {c : Car} {f : Car → Car}
    (car : s.car p = some c) (bounds : (f c).DistanceSound course s.race.settings.laps) :
    s.MovesCar p course (s.modifyCar p f) :=
  ⟨rfl, rfl, fun _ other => State.modifyCar_car_ne _ _ other,
    f c, by rw [State.modifyCar_car_self, car]; rfl, bounds⟩

/-- Reverse travel moves a car that has not finished (R73, R74). -/
theorem State.travelBack_movesCar {s : State} {p : Port} {course : Course} {c : Car} {delta : Int}
    (car : s.car p = some c) (bounds : c.DistanceSound course s.race.settings.laps)
    (runs : c.standing.isFinished = false) (back : delta < 0) :
    s.MovesCar p course (s.travelBack p course delta) := by
  have fallen := bounds.back runs back
  have moved : s.MovesCar p course
      (s.modifyCar p fun _ => c.reverse (course.position c.floorGate) delta) :=
    State.modifyCar_movesCar car fallen
  unfold State.travelBack
  rw [car]
  dsimp only
  split
  · refine State.MovesCar.told ?_ (State.notifyOwn_only _ _ _)
    rw [State.modifyCar_modifyCar]
    exact State.modifyCar_movesCar car (fallen.of_sameProgress ⟨rfl, rfl, rfl, rfl, rfl⟩)
  · exact moved

/-- Forward travel changes the car's own record and tells its port of the end of a wrong-way condition
(R75). -/
theorem State.travelForward_only {s : State} {p : Port} {course : Course} {c : Car} {delta : Int}
    (car : s.car p = some c) :
    (s.modifyCar p (Car.forward (course.finish s.race.settings.laps) delta)).OnlyNotices
      (s.travelForward p course delta) := by
  unfold State.travelForward
  rw [car]
  dsimp only
  split
  · exact State.notifyOwn_only _ _ _
  · exact .refl _

/-- Forward travel and the crossings after it move a car that has not finished (R75, R78 to R81). -/
theorem State.travelForward_crossGates_movesCar {s : State} {p : Port} {course : Course} {c : Car}
    {delta : Int} (now : Nat) (sound : course.Sound) (car : s.car p = some c)
    (bounds : c.DistanceSound course s.race.settings.laps) (runs : c.standing.isFinished = false) :
    s.MovesCar p course ((s.travelForward p course delta).crossGates p now course
      (course.chainLength s.race.settings.laps)) := by
  have only := State.travelForward_only (course := course) (delta := delta) car
  generalize s.travelForward p course delta = m at only
  have race : m.race = s.race := only.race
  have here : m.car p = some (c.forward (course.finish s.race.settings.laps) delta) := by
    rw [only.car, State.modifyCar_car_self, car]; rfl
  obtain ⟨gates, crossing, chain, reached, on, beyond⟩ := State.crossGates_spec (now := now) sound
    (course.chainLength s.race.settings.laps) here (by rw [race]; exact bounds.gate)
    (by rw [race]; exact bounds.next) (by rw [race]; unfold Course.chainLength; omega)
  rw [race] at chain on beyond
  refine ⟨?_, ?_, fun q other => ?_, _, crossing.car, ?_⟩
  · rw [crossing.rest, race]
  · rw [crossing.rest]
    exact only.course
  · rw [crossing.others q other, only.car, State.modifyCar_car_ne _ _ other]
  · rw [race]
    exact bounds.forward_cross sound runs chain reached on beyond

/-- Steps 2 to 4 of the full application move a car that has not finished (R72 to R81). -/
theorem State.applyDelta_movesCar {s : State} {p : Port} {course : Course} {c : Car} (now : Nat)
    (carried : Int) (sound : course.Sound) (car : s.car p = some c)
    (bounds : c.DistanceSound course s.race.settings.laps) (runs : c.standing.isFinished = false) :
    s.MovesCar p course (s.applyDelta p c course now carried) := by
  unfold State.applyDelta
  dsimp only
  generalize limitDelta (c.allowance now) carried = delta
  generalize decide (c.allowance now < carried.natAbs) = cut
  have rated : (s.modifyCar p (Car.markRate cut)).car p = some (c.markRate cut) := by
    rw [State.modifyCar_car_self, car]; rfl
  have same : c.SameProgress (c.markRate cut) := ⟨rfl, rfl, rfl, rfl, rfl⟩
  have bounds := bounds.of_sameProgress same
  refine State.MovesCar.of_modifyCar (f := Car.markRate cut) ?_
  split_ifs with back forward
  · exact State.travelBack_movesCar rated bounds runs back
  · exact State.travelForward_crossGates_movesCar now sound rated bounds runs
  · exact State.modifyCar_movesCar rated (bounds.of_sameProgress ⟨rfl, rfl, rfl, rfl, rfl⟩)

/-! ### REPORT (R66 to R84) -/

/-- The full application of a REPORT for a RACING car keeps the bounds of every car. -/
theorem State.DistancesSound.fullApplication {s : State} {p : Port} (h : s.DistancesSound) (r : Request)
    (after : s.race.phase.afterGreen = true) (racing : s.carState p = .racing) :
    (s.fullApplication p r).DistancesSound := by
  unfold State.fullApplication
  split
  · next c course car loaded =>
    rw [State.carState_of car] at racing
    have runs : c.standing.isFinished = false :=
      Standing.isFinished_of_state (by rw [racing]; decide)
    have moves := State.applyDelta_movesCar s.raceClock (reportDelta r.payload)
      (h.course course loaded) car (h.cars after course loaded p c car) runs
    have booked := (State.bookReport_keepsDistances (s.applyDelta p c course s.raceClock
      (reportDelta r.payload)) p s.raceClock c.distance s.runningOrder).trans
      (State.storePose_keepsDistances _ p r)
    have stored := booked.sound (moves.sound h loaded after)
    dsimp only
    split
    · exact stored.endTests true (by rw [booked.green, moves.race]; exact after)
    · exact stored
  · exact h

theorem State.jumpStart_keepsDistances (s : State) (p : Port) : s.KeepsDistances (s.jumpStart p) := by
  unfold State.jumpStart
  split
  · exact .refl s
  · next c car =>
    have marked : s.KeepsDistances (s.modifyCar p fun x =>
        { x with sticky := { x.sticky with jumpStart := true }
                 penalty := jumpPenalty s.race.settings.jumpStartPenalty c.penalty }) :=
      State.modifyCar_keepsDistances fun c _ => ⟨rfl, rfl, rfl, rfl, rfl⟩
    dsimp only
    split
    · exact marked
    · exact (State.notifyOwn_only _ _ _).keepsDistances_after marked

theorem State.countdownReport_keepsDistances (s : State) (p : Port) (r : Request) :
    s.KeepsDistances (s.countdownReport p r) := by
  unfold State.countdownReport
  split
  · exact (s.jumpStart_keepsDistances p).trans (State.storePose_keepsDistances _ p r)
  · exact s.storePose_keepsDistances p r

/-- What an accepted REPORT does keeps the bounds of every car (Table 4.3). -/
theorem State.DistancesSound.applyReport {s : State} (h : s.DistancesSound) (p : Port) (r : Request) :
    (s.applyReport p r).DistancesSound := by
  unfold State.applyReport
  split
  · exact (s.countdownReport_keepsDistances p r).sound h
  · next green racing => exact h.fullApplication r (by rw [green]; rfl) racing
  · next finishing racing => exact h.fullApplication r (by rw [finishing]; rfl) racing
  · exact (s.storePose_keepsDistances p r).sound h
  · exact (s.storePose_keepsDistances p r).sound h
  · exact h

end Sys2Proof.Machine
end

section
/-! PROOF. Every command keeps the bounds of every car (R77): the race requests, the answers of a port, the
events of a link and the expiries. -/
namespace Sys2Proof.Machine

/-! ### Grants and answers -/

theorem State.setPointer_keepsDistances (s : State) (p : Port) :
    s.KeepsDistances { s with raaPointer := p } :=
  State.keepsDistances_of_cars rfl rfl rfl rfl

theorem State.setPending_keepsDistances (s : State) (commands : List Instr) :
    s.KeepsDistances { s with pending := commands } :=
  State.keepsDistances_of_cars rfl rfl rfl rfl

/-- A grant keeps the bounds where what it performs does. -/
theorem State.DistancesSound.grant {s : State} {p : Port} {k : RequestKind}
    {perform : Request → State → State × Response} (h : s.DistancesSound)
    (keeps : ∀ r u, u.DistancesSound → (perform r u).1.DistancesSound) :
    (s.grant p k perform).DistancesSound := by
  cases waits : s.granted p k with
  | none => rw [State.grant_none waits]; exact h
  | some r =>
    rw [State.grant_some waits]
    have done := keeps r _ ((s.modifyPort_keepsDistances p PortState.dropRequest).sound h)
    refine (State.setPointer_keepsDistances _ p).sound ?_
    exact (State.modifyPort_keepsDistances _ p _).sound done

/-- An answer at the head of a queue keeps the bounds where what it performs does. -/
theorem State.DistancesSound.answer {s : State} {p : Port} {k : RequestKind}
    {perform : Request → State → State × Response} (h : s.DistancesSound)
    (keeps : ∀ r u, u.DistancesSound → (perform r u).1.DistancesSound) :
    (s.answer p k perform).DistancesSound := by
  cases waits : s.localRequest p k with
  | none => rw [State.answer_none waits]; exact h
  | some r =>
    rw [State.answer_some waits]
    have done := keeps r _ ((s.modifyPort_keepsDistances p PortState.dropRequest).sound h)
    exact (State.modifyPort_keepsDistances _ p _).sound done

/-! ### The requests of FORMING -/

/-- A phase that is neither IDLE nor locked is FORMING. -/
theorem Phase.forming_of_unlocked {x : Phase} (started : x ≠ .idle) (free : x.locked ≠ true) :
    x = .forming := by
  cases x with
  | forming => rfl
  | idle => exact absurd rfl started
  | grid | countdown | green | finishing | results => exact absurd rfl free

/-- A car that enters before the green stands at its start values (Table 3.4). -/
theorem State.DistancesSound.appendEntry {s : State} (h : s.DistancesSound) (p : Port)
    (before : s.race.phase.afterGreen = false) : (s.appendEntry p).DistancesSound := by
  refine .of_before before h.course h.settings fun q c car => ?_
  simp only [State.car, State.appendEntry, Bank.get_set] at car
  split at car
  · obtain rfl := Option.some.inj car
    exact ⟨rfl, rfl, rfl⟩
  · exact h.grid before q c car

theorem State.DistancesSound.openRace {s : State} (h : s.DistancesSound) (p : Port)
    (idle : s.race.phase = .idle) : (s.openRace p).DistancesSound := by
  unfold State.openRace
  refine ((State.notifyRace_only _ _).keepsDistances_after
    (State.notifyPhase_only _ _).keepsDistances).sound (State.DistancesSound.appendEntry ?_ p rfl)
  exact .of_before rfl h.course Settings.default_sound (h.grid (by rw [idle]; rfl))

theorem performOpenRace_distancesSound (p : Port) (r : Request) {s : State} (h : s.DistancesSound) :
    (performOpenRace p r s).1.DistancesSound := by
  unfold performOpenRace
  split_ifs with fenced running
  · exact h
  · exact h
  · exact h.openRace p (not_not.mp running)

theorem performSetRules_distancesSound (p : Port) (r : Request) {s : State} (h : s.DistancesSound) :
    (performSetRules p r s).1.DistancesSound := by
  unfold performSetRules
  split
  · exact h
  · next accepted =>
    unfold State.rulesRefusal at accepted
    split_ifs at accepted with fenced idle locked opener range
    have forming := Phase.forming_of_unlocked idle locked
    have before : s.race.phase.afterGreen = false := by rw [forming]; rfl
    exact .of_before before h.course (h.settings.apply (by simpa using range)) (h.grid before)

theorem State.DistancesSound.loadCourse {s : State} {c : Course} (h : s.DistancesSound) (p : Port)
    (sound : c.Sound) (before : s.race.phase.afterGreen = false) :
    (s.loadCourse p c).DistancesSound := by
  have loaded : ({ s with course := some c } : State).DistancesSound := by
    refine .of_before before (fun d this => ?_) h.settings (h.grid before)
    obtain rfl := Option.some.inj this
    exact sound
  unfold State.loadCourse
  dsimp only
  split
  · exact loaded
  · exact (State.withdrawEach_keepsDistances _ _ _).1.sound loaded

theorem performLoadCourse_distancesSound (p : Port) (r : Request) {s : State} (h : s.DistancesSound) :
    (performLoadCourse p r s).1.DistancesSound := by
  unfold performLoadCourse
  split_ifs with fenced idle locked opener
  · exact h
  · exact h
  · exact h
  · exact h
  · split
    · exact h
    · next c defined =>
      exact h.loadCourse p (courseOf_sound defined)
        (by rw [Phase.forming_of_unlocked idle locked]; rfl)

theorem performEnter_distancesSound (p : Port) (r : Request) {s : State} (h : s.DistancesSound) :
    (performEnter p r s).1.DistancesSound := by
  unfold performEnter
  split_ifs with fenced idle forming entered
  · exact h
  · exact h
  · exact h
  · exact h
  · split
    · exact h
    · split
      · exact h
      · exact (State.notifyRace_only _ _).keepsDistances.sound
          (h.appendEntry p (by rw [not_not.mp forming]; rfl))

theorem performCarSetup_distancesSound (p : Port) (r : Request) {s : State} (h : s.DistancesSound) :
    (performCarSetup p r s).1.DistancesSound := by
  have changed : s.KeepsDistances (s.modifyCar p (Car.setup r.payload)) :=
    State.modifyCar_keepsDistances fun c _ => ⟨rfl, rfl, rfl, rfl, rfl⟩
  unfold performCarSetup
  split
  · exact h
  split
  · exact h
  split
  · exact h
  · split_ifs
    · exact h
    · exact h
    · exact h
    · exact changed.sound h
    · exact ((State.notifyRace_only _ _).keepsDistances_after changed).sound h

theorem performCloseEntries_distancesSound (p : Port) (r : Request) {s : State} (h : s.DistancesSound) :
    (performCloseEntries p r s).1.DistancesSound := by
  unfold performCloseEntries
  split_ifs with fenced idle forming opener loaded
  · exact h
  · exact h
  · exact h
  · exact h
  · exact h
  · exact (State.enterGrid_keepsDistances (by rw [not_not.mp forming]; rfl)).sound h

/-! ### READY and LEAVE -/

/-- READY is declared before the green: the cars stay at their start values (R50). -/
theorem State.DistancesSound.declareReady {s : State} {p : Port} (h : s.DistancesSound)
    (grid : s.race.phase = .grid) : (s.declareReady p).DistancesSound := by
  have before : s.race.phase.afterGreen = false := by rw [grid]; rfl
  have ready : ((s.modifyCar p fun c => { c with standing := .ready }).notifyRace
      (.carState p .ready .none)).DistancesSound := by
    refine (State.notifyRace_only _ _).keepsDistances.sound
      (.of_before before h.course h.settings fun q d car => ?_)
    rw [State.modifyCar_car] at car
    split at car
    · obtain ⟨c, own, rfl⟩ := Option.map_eq_some_iff.mp car
      exact h.grid before p c own
    · exact h.grid before q d car
  unfold State.declareReady
  dsimp only
  split
  · refine (State.enterCountdown_keepsDistances ?_).sound ready
    exact before
  · exact ready

theorem performReady_distancesSound (p : Port) (r : Request) {s : State} (h : s.DistancesSound) :
    (performReady p r s).1.DistancesSound := by
  unfold performReady
  split
  · exact h
  split
  · exact h
  split
  · exact h
  · split_ifs with grid ready
    · exact h
    · exact h
    · exact h.declareReady (not_not.mp grid)

theorem performLeave_distancesSound (p : Port) (r : Request) {s : State} (h : s.DistancesSound) :
    (performLeave p r s).1.DistancesSound := by
  unfold performLeave
  split
  · exact h
  · cases phase : s.race.phase with
    | idle => exact h
    | forming | grid | countdown =>
      dsimp only
      split
      · exact h.withdrawAndTest p _
      · exact h
    | green | finishing =>
      dsimp only
      split
      · exact h
      · next c car =>
        split
        · exact h
        · next racing =>
          refine h.retire _ (by rw [phase]; rfl) fun d this => ?_
          obtain rfl := Option.some.inj (car.symm.trans this)
          exact (Bool.or_eq_false_iff.mp (Bool.not_eq_true _ ▸ racing)).1
    | results =>
      dsimp only
      split
      · exact h.release p
      · exact h

/-! ### Reports, reading and votes -/

theorem performReport_distancesSound (p : Port) (r : Request) {s : State} (h : s.DistancesSound) :
    (performReport p r s).1.DistancesSound := by
  unfold performReport
  split
  · exact h
  split
  · exact h
  split
  · exact h
  · split_ifs
    · exact h
    · exact h
    · exact h.applyReport p r

theorem performClearFlags_distancesSound (p : Port) (r : Request) {s : State} (h : s.DistancesSound) :
    (performClearFlags p r s).1.DistancesSound := by
  unfold performClearFlags
  split
  · exact h
  split
  · exact h
  split
  · exact h
  · split_ifs
    · exact h
    · refine State.KeepsDistances.sound (State.modifyCar_keepsDistances ?_) h
      exact fun c _ => ⟨rfl, rfl, rfl, rfl, rfl⟩

theorem performSnapshot_state (p : Port) (r : Request) (s : State) : (performSnapshot p r s).1 = s := by
  unfold performSnapshot
  split <;> rfl

theorem performReadLaps_state (p : Port) (r : Request) (s : State) : (performReadLaps p r s).1 = s := by
  unfold performReadLaps
  split_ifs
  · rfl
  · rfl
  · rfl
  · split
    · rfl
    · split <;> rfl

theorem performReadResults_state (p : Port) (r : Request) (s : State) :
    (performReadResults p r s).1 = s := by
  unfold performReadResults
  split_ifs
  · rfl
  · rfl
  · split <;> rfl

theorem State.castVote_keepsDistances (s : State) (p : Port) : s.KeepsDistances (s.castVote p) := by
  have cast : s.KeepsDistances (s.modifyRace fun r => { r with votes := r.votes.set p (some s.raceClock) }) :=
    State.modifyRace_keepsDistances rfl rfl
  unfold State.castVote
  dsimp only
  split
  · exact cast
  · exact (State.notifyVotes_only _).keepsDistances_after cast

theorem performAbortVote_distancesSound (p : Port) (r : Request) {s : State} (h : s.DistancesSound) :
    (performAbortVote p r s).1.DistancesSound := by
  have cast := s.castVote_keepsDistances p
  unfold performAbortVote
  split
  · exact h
  split
  · exact h
  split
  · exact h
  split
  · exact h
  next waits =>
  split
  · exact h
  · dsimp only
    split
    · refine (cast.sound h).enterResults _ ?_
      rw [cast.green]
      exact Phase.afterGreen_of_running (by simpa using waits)
    · exact cast.sound h

theorem performWithdrawVote_distancesSound (p : Port) (r : Request) {s : State} (h : s.DistancesSound) :
    (performWithdrawVote p r s).1.DistancesSound := by
  unfold performWithdrawVote State.removeVote
  split_ifs
  · exact h
  · exact h
  · exact h
  · exact h
  · exact ((State.notifyVotes_only _).keepsDistances_after (s.dropVote_keepsDistances p)).sound h
  · exact h

/-! ### What a port answers itself -/

theorem performIdentify_state (p : Port) (r : Request) (s : State) : (performIdentify p r s).1 = s := by
  unfold performIdentify
  split <;> rfl

theorem performNop_state (p : Port) (r : Request) (s : State) : (performNop p r s).1 = s := by
  unfold performNop
  split <;> rfl

theorem performSetPush_keepsDistances (p : Port) (r : Request) (s : State) :
    s.KeepsDistances (performSetPush p r s).1 := by
  unfold performSetPush
  dsimp only
  split
  · exact .refl s
  split
  · exact .refl s
  · dsimp only
    exact s.modifyPort_keepsDistances p _

theorem State.clearErrors_keepsDistances (s : State) (p : Port) : s.KeepsDistances (s.clearErrors p) := by
  unfold State.clearErrors
  dsimp only
  split
  · exact .refl s
  · exact (s.modifyPort_keepsDistances p _).trans (State.becomePresent_keepsDistances _ p)

theorem State.DistancesSound.answerIdentify {s : State} (h : s.DistancesSound) (p : Port) :
    (s.answerIdentify p).DistancesSound :=
  h.answer fun r u sound => by rw [performIdentify_state]; exact sound

theorem State.DistancesSound.answerNop {s : State} (h : s.DistancesSound) (p : Port) :
    (s.answerNop p).DistancesSound :=
  h.answer fun r u sound => by rw [performNop_state]; exact sound

theorem State.DistancesSound.answerSetPush {s : State} (h : s.DistancesSound) (p : Port) :
    (s.answerSetPush p).DistancesSound := by
  unfold State.answerSetPush
  split
  · exact h
  · exact (State.reportReserved_keepsDistances _ p _).sound
      (h.answer fun r u sound => (performSetPush_keepsDistances p r u).sound sound)

theorem State.DistancesSound.answerClearErrors {s : State} (h : s.DistancesSound) (p : Port) :
    (s.answerClearErrors p).DistancesSound :=
  h.answer fun _ u sound => (u.clearErrors_keepsDistances p).sound sound

theorem State.answerUnknown_keepsDistances (s : State) (p : Port) :
    s.KeepsDistances (s.answerUnknown p) := by
  unfold State.answerUnknown
  split
  · exact s.modifyPort_keepsDistances p _
  · exact .refl s
  · exact .refl s

theorem State.DistancesSound.answerHead {s : State} (h : s.DistancesSound) (p : Port) :
    (s.answerHead p).DistancesSound := by
  unfold State.answerHead
  split
  · exact h
  · exact (s.answerUnknown_keepsDistances p).sound h
  · split
    · exact h.answerIdentify p
    · exact h.answerNop p
    · exact h.answerSetPush p
    · exact h.answerClearErrors p
    all_goals exact h

/-! ### The events of a link -/

theorem State.frameArrives_keepsDistances (s : State) (p : Port) : s.KeepsDistances (s.frameArrives p) := by
  have up := s.modifyPort_keepsDistances p fun c => { c with link := .up, badChecks := 0 }
  unfold State.frameArrives State.validFramePresence
  split
  · exact up
  · exact up.trans (State.becomePresent_keepsDistances _ p)

theorem State.sortFrame_keepsDistances (s : State) (p : Port) (kind : Byte) (payload : List Byte) :
    s.KeepsDistances (s.sortFrame p kind payload) := by
  unfold State.sortFrame
  split
  · split
    · exact s.modifyPort_keepsDistances p _
    · exact s.majorError_keepsDistances p _ _
  · exact (s.modifyPort_keepsDistances p _).trans (State.majorError_keepsDistances _ p _ _)

theorem State.DistancesSound.validFrame {s : State} (h : s.DistancesSound) (p : Port) (kind : Byte)
    (payload : List Byte) : (s.validFrame p kind payload).DistancesSound := by
  have sorted := ((s.frameArrives_keepsDistances p).trans
    (State.sortFrame_keepsDistances _ p kind payload)).sound h
  unfold State.validFrame
  dsimp only
  split
  · exact sorted.answerHead p
  · exact sorted

theorem State.badLengthFrame_keepsDistances (s : State) (p : Port) :
    s.KeepsDistances (s.badLengthFrame p) := by
  unfold State.badLengthFrame
  split
  · exact s.majorError_keepsDistances p _ _
  · exact .refl s

theorem State.badCheckFrame_keepsDistances (s : State) (p : Port) :
    s.KeepsDistances (s.badCheckFrame p) := by
  have reported := (s.modifyPort_keepsDistances p fun c => { c with badChecks := c.badChecks + 1 }).trans
    (State.majorError_keepsDistances _ p .badCheck none)
  unfold State.badCheckFrame
  split
  · exact .refl s
  · dsimp only
    split
    · exact reported.trans (State.linkDown_keepsDistances _ p)
    · exact reported

theorem State.lossOfSignal_keepsDistances (s : State) (p : Port) : s.KeepsDistances (s.lossOfSignal p) := by
  unfold State.lossOfSignal
  split
  · exact s.linkDown_keepsDistances p
  · exact s.modifyPort_keepsDistances p _

/-- The reset values of R182 are within the bounds. -/
theorem State.reset_distancesSound : State.reset.DistancesSound :=
  .of_before rfl (fun _ loaded => absurd loaded (by simp [State.reset])) Settings.default_sound
    fun p c car => absurd car (by simp [State.car, State.reset])

/-! ### The expiries -/

/-- A countdown that has run out starts READY cars alone. In COUNTDOWN every car is READY (Table 2.4), and this
part of that fact is what the tick needs where expiries come before the countdown's. -/
def State.StartsReady (s : State) : Prop :=
  s.race.phase = .countdown → s.race.countdown = some 0 →
    ∀ (p : Port) (c : Car), s.car p = some c → c.standing = .ready

theorem State.RaceSound.startsReady {s : State} (h : s.RaceSound) : s.StartsReady := by
  intro phase _ p c car
  have allowed := h.standings p c car
  rw [phase] at allowed
  exact of_decide_eq_true allowed

/-- The end of the entry window starts no countdown (R25). -/
theorem State.StartsReady.entryWindowExpiry {s : State} (h : s.StartsReady) :
    s.entryWindowExpiry.StartsReady := by
  unfold State.entryWindowExpiry
  split
  · split
    · exact fun phase => absurd phase (by simp [State.enterGrid])
    · exact fun phase => absurd phase (by rw [(State.returnToIdle_spec _ s).race]; simp [RaceRecord.reset])
  · exact h

/-- A countdown that begins has at least 1,000 ms to run (R27, Table 2.3). -/
theorem State.enterCountdown_startsReady {s : State} (h : s.DistancesSound) :
    s.enterCountdown.StartsReady := by
  intro _ out
  have long := h.settings.countdownLength_pos
  rw [s.enterCountdown_only.race] at out
  simp only [State.modifyRace] at out
  split at out
  · exact absurd out (by simp)
  · rw [Option.some.injEq] at out
    omega

theorem State.gridWaitExpiry_distances {s : State} (h : s.DistancesSound) (ready : s.StartsReady) :
    s.gridWaitExpiry.DistancesSound ∧ s.gridWaitExpiry.StartsReady := by
  unfold State.gridWaitExpiry
  split
  · next due =>
    obtain ⟨keeps, race⟩ := State.withdrawEach_keepsDistances .readyMissed s.enteredPorts s
    have left := keeps.sound h
    dsimp only
    split
    · refine ⟨left.returnToIdle _, fun phase => absurd phase ?_⟩
      rw [(State.returnToIdle_spec _ _).race]
      simp [RaceRecord.reset]
    · refine ⟨(State.enterCountdown_keepsDistances ?_).sound left, State.enterCountdown_startsReady left⟩
      rw [race, due.1]
      rfl
  · exact ⟨h, ready⟩

theorem State.DistancesSound.countdownExpiry {s : State} (h : s.DistancesSound) (ready : s.StartsReady) :
    s.countdownExpiry.DistancesSound := by
  unfold State.countdownExpiry
  split
  · next due =>
    obtain ⟨phase, out, -⟩ := due
    exact h.enterGreen (by rw [phase]; rfl) (ready phase out)
  · exact h

theorem State.DistancesSound.closingWindowExpiry {s : State} (h : s.DistancesSound) :
    s.closingWindowExpiry.DistancesSound := by
  unfold State.closingWindowExpiry
  split
  · next due => exact h.enterResults _ (by rw [due.1]; rfl)
  · exact h

theorem State.DistancesSound.resultsHoldExpiry {s : State} (h : s.DistancesSound) :
    s.resultsHoldExpiry.DistancesSound := by
  unfold State.resultsHoldExpiry
  split
  · exact h.returnToIdle _
  · exact h

theorem State.voteExpiry_keepsDistances (s : State) (p : Port) : s.KeepsDistances (s.voteExpiry p) := by
  unfold State.voteExpiry
  split
  · exact (State.notifyVotes_only _).keepsDistances_after (s.dropVote_keepsDistances p)
  · exact .refl s

theorem State.silenceFirstStageExpiry_keepsDistances (s : State) (p : Port) :
    s.KeepsDistances (s.silenceFirstStageExpiry p) := by
  unfold State.silenceFirstStageExpiry
  split
  · exact s.goLate_keepsDistances p _
  · exact .refl s

theorem State.DistancesSound.silenceSecondStageExpiry {s : State} (h : s.DistancesSound) (p : Port) :
    (s.silenceSecondStageExpiry p).DistancesSound := by
  unfold State.silenceSecondStageExpiry
  split
  · exact h.becomeLost p
  · exact h

theorem State.pushTimerExpiry_keepsDistances (s : State) (p : Port) :
    s.KeepsDistances (s.pushTimerExpiry p) := by
  unfold State.pushTimerExpiry
  split
  · exact s.modifyPort_keepsDistances p _
  · exact .refl s

/-! ### The tick -/

/-- What each port's expiry keeps, the expiries of all ports keep. -/
theorem State.DistancesSound.foldl {expiry : State → Port → State} {s : State} (h : s.DistancesSound)
    (keeps : ∀ u p, u.DistancesSound → (expiry u p).DistancesSound) (ports : List Port) :
    (ports.foldl expiry s).DistancesSound :=
  List.foldlRecOn ports expiry h fun u sound p _ => keeps u p sound

theorem State.DistancesSound.takeDue {s : State} (h : s.DistancesSound) (ready : s.StartsReady) :
    s.takeDue.DistancesSound := by
  have grid := State.gridWaitExpiry_distances h.entryWindowExpiry ready.entryWindowExpiry
  have timers := (grid.1.countdownExpiry grid.2).closingWindowExpiry.resultsHoldExpiry
  have votes := timers.foldl (fun u p => (u.voteExpiry_keepsDistances p).sound) allPorts
  have first := votes.foldl (fun u p => (u.silenceFirstStageExpiry_keepsDistances p).sound) allPorts
  have second := first.foldl (fun u p sound => sound.silenceSecondStageExpiry p) allPorts
  exact second.foldl (fun u p => (u.pushTimerExpiry_keepsDistances p).sound) allPorts

theorem State.countTick_keepsDistances (s : State) : s.KeepsDistances s.countTick :=
  State.keepsDistances_of_cars rfl rfl rfl rfl

/-- The tick that reaches the race limit comes after the green (R35). -/
theorem State.DistancesSound.limitTick {s : State} (h : s.DistancesSound) (limit : s.atLimit = true) :
    s.limitTick.DistancesSound :=
  (s.countTick_keepsDistances.sound h).enterResults _
    (Phase.afterGreen_of_running (Bool.and_eq_true_iff.mp limit).1)

theorem State.DistancesSound.tick {s : State} (h : s.DistancesSound) (ready : s.StartsReady) :
    s.tick.DistancesSound := by
  have due := h.takeDue ready
  unfold State.tick
  split
  · next limit => exact due.limitTick limit
  · exact (State.countTick_keepsDistances _).sound due

/-! ### Every command -/

/-- Every command keeps the bounds of every car. -/
theorem exec_distancesSound (command : Instr) {s : State} (h : s.DistancesSound) (ready : s.StartsReady) :
    ∃ t : State, exec command s = .next t ∧ t.DistancesSound := by
  cases command with
  | openRace p => exact ⟨_, rfl, h.grant fun r _ => performOpenRace_distancesSound p r⟩
  | setRules p =>
    have done := h.grant (p := p) (k := .setRules) fun r _ => performSetRules_distancesSound p r
    refine ⟨_, rfl, ?_⟩
    split
    · exact h
    · split
      · exact done.entryWindowExpiry
      · exact done
  | loadCourse p => exact ⟨_, rfl, h.grant fun r _ => performLoadCourse_distancesSound p r⟩
  | enter p => exact ⟨_, rfl, h.grant fun r _ => performEnter_distancesSound p r⟩
  | carSetup p =>
    refine ⟨_, rfl, ?_⟩
    split
    · exact h
    · exact (State.reportReserved_keepsDistances _ p _).sound
        (h.grant fun r _ => performCarSetup_distancesSound p r)
  | closeEntries p => exact ⟨_, rfl, h.grant fun r _ => performCloseEntries_distancesSound p r⟩
  | ready p => exact ⟨_, rfl, h.grant fun r _ => performReady_distancesSound p r⟩
  | leave p => exact ⟨_, rfl, h.grant fun r _ => performLeave_distancesSound p r⟩
  | report p => exact ⟨_, rfl, h.grant fun r _ => performReport_distancesSound p r⟩
  | clearFlags p => exact ⟨_, rfl, h.grant fun r _ => performClearFlags_distancesSound p r⟩
  | snapshot p => exact ⟨_, rfl, h.grant fun r u sound => by rw [performSnapshot_state]; exact sound⟩
  | readLaps p => exact ⟨_, rfl, h.grant fun r u sound => by rw [performReadLaps_state]; exact sound⟩
  | readResults p =>
    exact ⟨_, rfl, h.grant fun r u sound => by rw [performReadResults_state]; exact sound⟩
  | abortVote p => exact ⟨_, rfl, h.grant fun r _ => performAbortVote_distancesSound p r⟩
  | withdrawVote p => exact ⟨_, rfl, h.grant fun r _ => performWithdrawVote_distancesSound p r⟩
  | identify p => exact ⟨_, rfl, h.answerIdentify p⟩
  | nop p => exact ⟨_, rfl, h.answerNop p⟩
  | setPush p => exact ⟨_, rfl, h.answerSetPush p⟩
  | clearErrors p => exact ⟨_, rfl, h.answerClearErrors p⟩
  | unknownFrameAnswer p => exact ⟨_, rfl, (s.answerUnknown_keepsDistances p).sound h⟩
  | validFrame p kind payload =>
    refine ⟨_, rfl, ?_⟩
    split
    · exact h.validFrame p kind payload
    · exact (s.badLengthFrame_keepsDistances p).sound h
  | badCheckFrame p => exact ⟨_, rfl, (s.badCheckFrame_keepsDistances p).sound h⟩
  | badLengthFrame p => exact ⟨_, rfl, (s.badLengthFrame_keepsDistances p).sound h⟩
  | resynchronisingCandidateDiscard p => exact ⟨_, rfl, h⟩
  | lossOfSignal p => exact ⟨_, rfl, (s.lossOfSignal_keepsDistances p).sound h⟩
  | hardwareReset =>
    exact ⟨_, rfl, (State.reset.setPending_keepsDistances s.pending).sound State.reset_distancesSound⟩
  | entryWindowExpiry => exact ⟨_, rfl, h.entryWindowExpiry⟩
  | gridWaitExpiry => exact ⟨_, rfl, (State.gridWaitExpiry_distances h ready).1⟩
  | countdownExpiry => exact ⟨_, rfl, h.countdownExpiry ready⟩
  | closingWindowExpiry => exact ⟨_, rfl, h.closingWindowExpiry⟩
  | raceLimit =>
    refine ⟨_, rfl, ?_⟩
    split
    · next limit => exact (h.takeDue ready).limitTick limit
    · exact h
  | resultsHoldExpiry => exact ⟨_, rfl, h.resultsHoldExpiry⟩
  | voteExpiry p => exact ⟨_, rfl, (s.voteExpiry_keepsDistances p).sound h⟩
  | silenceFirstStageExpiry p => exact ⟨_, rfl, (s.silenceFirstStageExpiry_keepsDistances p).sound h⟩
  | silenceSecondStageExpiry p => exact ⟨_, rfl, h.silenceSecondStageExpiry p⟩
  | pushTimerExpiry p => exact ⟨_, rfl, (s.pushTimerExpiry_keepsDistances p).sound h⟩
  | transmitTake p => exact ⟨_, rfl, (s.modifyPort_keepsDistances p _).sound h⟩
  | tick => exact ⟨_, rfl, h.tick ready⟩

/-- Settles O9: every command keeps the bounds, and where cars start at the green, RaceSound has them
READY. -/
theorem stepKeepsDistancesSound : Obligations.StepKeepsDistancesSound := by
  intro s t race h stepped
  unfold step at stepped
  split at stepped
  · obtain rfl := Host.Outcome.next.inj stepped
    exact h
  · next command rest _ =>
    obtain ⟨u, performed, sound⟩ := exec_distancesSound command
      ((s.setPending_keepsDistances rest).sound h) race.startsReady
    obtain rfl := Host.Outcome.next.inj (performed.symm.trans stepped)
    exact sound

end Sys2Proof.Machine
end

section
/-! PROOF. LOAD_COURSE (R5, R6): the course record is replaced, and a changed check value withdraws every
entered car but the opener's (R52). -/
namespace Sys2Proof.Machine

/-! ### The places of the entry list (R44) -/

/-- Each car's entry position is its place in the entry list, which holds no slot twice (R44). -/
structure State.EntryPlaces (s : State) : Prop where
  nodup : s.entryList.Nodup
  places : ∀ (q : Port) (d : Car), s.car q = some d →
    s.entryList.idxOf? q = some (d.entryPosition - 1) ∧ 1 ≤ d.entryPosition

/-- Where one of two slots leaves a list, the other moves up by one if it stood behind it. -/
theorem idxOf?_filter_ne {p q : Port} (other : q ≠ p) : ∀ {l : List Port} {i j : Nat}, l.Nodup →
    l.idxOf? p = some i → l.idxOf? q = some j →
    (l.filter (fun x => x ≠ p)).idxOf? q = some (if i < j then j - 1 else j) := by
  intro l
  induction l with
  | nil => intro i j _ there; simp at there
  | cons x rest ih =>
    intro i j nodup own there
    obtain ⟨fresh, nodup⟩ := List.nodup_cons.mp nodup
    rw [List.idxOf?_cons] at own there
    by_cases leaves : x = p
    · subst leaves
      have stays : rest.filter (fun y => y ≠ x) = rest :=
        List.filter_eq_self.mpr fun y member => by
          simpa using fun same : y = x => fresh (same ▸ member)
      simp only [beq_self_eq_true, if_true, Option.some.injEq] at own
      rw [if_neg (by simpa using other.symm)] at there
      obtain ⟨k, later, rfl⟩ := Option.map_eq_some_iff.mp there
      rw [List.filter_cons_of_neg (by simp), stays, later, ← own]
      simp
    · rw [List.filter_cons_of_pos (by simpa using leaves), List.idxOf?_cons]
      by_cases first : x = q
      · simp only [first, beq_self_eq_true, if_true, Option.some.injEq] at there ⊢
        simp [← there]
      · have out : ¬(x == p) = true := by simpa using leaves
        have behind : ¬(x == q) = true := by simpa using first
        rw [if_neg out] at own
        rw [if_neg behind] at there ⊢
        obtain ⟨i, vacant, rfl⟩ := Option.map_eq_some_iff.mp own
        obtain ⟨j, later, rfl⟩ := Option.map_eq_some_iff.mp there
        rw [ih nodup vacant later, Option.map_some, Option.some.injEq]
        split_ifs <;> omega

/-- A withdrawal closes up the entry positions behind the car that leaves (R44, R52). -/
theorem State.EntryPlaces.withdrawn {s t : State} {p : Port} {reason : Reason} {c : Car}
    (h : s.EntryPlaces) (car : s.car p = some c) (gone : s.Withdrawn p reason c t) : t.EntryPlaces := by
  have list : t.entryList = s.entryList.filter (fun q => q ≠ p) := by rw [gone.rest]
  obtain ⟨vacant, first⟩ := h.places p c car
  refine ⟨list ▸ h.nodup.filter _, fun q e there => ?_⟩
  by_cases other : q = p
  · rw [other, gone.gone] at there
    exact absurd there (by simp)
  · rw [gone.others q other] at there
    obtain ⟨d, stood, rfl⟩ := Option.map_eq_some_iff.mp there
    obtain ⟨place, least⟩ := h.places q d stood
    rw [list, idxOf?_filter_ne other h.nodup vacant place, Option.some.injEq]
    by_cases behind : c.entryPosition < d.entryPosition
    · rw [if_pos behind, if_pos (by omega)]
      dsimp only
      omega
    · rw [if_neg behind, if_neg (by omega)]
      omega

/-- Several withdrawals of one event keep the entry positions the places in the entry list. -/
theorem State.EntryPlaces.withdrawnEach {reason : Reason} : ∀ {l : List Port} {s t : State},
    s.EntryPlaces → s.WithdrawnEach reason l t → t.EntryPlaces := by
  intro l
  induction l with
  | nil => rintro s t h rfl; exact h
  | cons p rest ih =>
    rintro s t h ⟨c, u, car, first, later⟩
    exact ih (h.withdrawn car first) later

/-- Before the green a sound order has the cars of the race in the entry list, each at its place (R92). -/
theorem State.OrderSound.entryList {s : State} (h : s.OrderSound)
    (before : s.race.phase.afterGreen = false) :
    s.EntryPlaces ∧ ∀ q : Port, q ∈ s.entryList ↔ s.isRacePort q = true := by
  have order : s.runningOrder = s.entryList := by
    unfold State.runningOrder
    rw [before]
    rfl
  exact ⟨⟨order ▸ h.nodup, h.entryPositions⟩, order ▸ h.complete⟩

/-! ### The cars that a changed check value withdraws (R6) -/

theorem State.mem_otherEntered {s : State} {p q : Port} :
    q ∈ s.otherEntered p ↔ q ≠ p ∧ s.carState q = .entered := by
  simp [State.otherEntered, mem_allPorts]

/-- They are withdrawn in ascending slot order (R6). -/
theorem State.otherEntered_sorted (s : State) (p : Port) : (s.otherEntered p).Pairwise (· < ·) :=
  List.Pairwise.filter _ (by decide : allPorts.Pairwise (· < ·))

/-- In FORMING every car is ENTERED (Table 2.4). -/
theorem State.RaceSound.entered {s : State} (h : s.RaceSound) (forming : s.race.phase = .forming)
    {q : Port} {c : Car} (car : s.car q = some c) : s.carState q = .entered := by
  have allowed := h.standings q c car
  rw [forming] at allowed
  rw [State.carState_of car, of_decide_eq_true allowed]
  rfl

/-! ### LOAD_COURSE -/

theorem State.loadCourse_same {s : State} {p : Port} {c : Course}
    (h : s.course.map Course.checkValue = some c.checkValue ∨ s.otherEntered p = []) :
    s.loadCourse p c = { s with course := some c } := by
  unfold State.loadCourse
  rcases h with same | nobody
  · exact if_pos same
  · rw [nobody]
    exact ite_self _

/-- A changed check value withdraws each of the other entered cars (R6). -/
theorem State.loadCourse_withdraws {s : State} (p : Port) {c : Course}
    (changed : s.course.map Course.checkValue ≠ some c.checkValue) :
    ({ s with course := some c } : State).WithdrawnEach .courseChanged (s.otherEntered p)
      (s.loadCourse p c) := by
  unfold State.loadCourse
  dsimp only
  rw [if_neg changed]
  refine State.withdrawEach_spec _ _ _ ((s.otherEntered_sorted p).imp fun less => less.ne) fun q other => ?_
  obtain ⟨-, entered⟩ := State.mem_otherEntered.mp other
  intro (empty : s.car q = none)
  rw [State.carState, empty] at entered
  exact absurd entered (by decide)

/-- What a LOAD_COURSE does to the ports besides the two ends of its grant is to offer them notices. -/
theorem State.loadCourse_ports (s : State) (p q : Port) (c : Course) :
    (s.port q).SameButNotices ((s.loadCourse p c).port q) := by
  unfold State.loadCourse
  dsimp only
  split
  · rfl
  · exact State.withdrawEach_ports _ _ _ q

/-- After a changed check value the opener's car is alone in the race, at entry position 1 (R6, R44). -/
theorem State.loadCourse_leaves_opener {s : State} {p : Port} {c : Course} {own : Car}
    (entries : s.EntryPlaces) (complete : ∀ q : Port, q ∈ s.entryList ↔ s.isRacePort q = true)
    (entered : ∀ (q : Port) (d : Car), s.car q = some d → s.carState q = .entered)
    (car : s.car p = some own) (changed : s.course.map Course.checkValue ≠ some c.checkValue) :
    s.loadCourse p c = { s with
      course := some c, cars := (s.loadCourse p c).cars, entryList := [p]
      ports := (s.loadCourse p c).ports } ∧
    (s.loadCourse p c).car p = some { own with entryPosition := 1 } ∧
    ∀ q : Port, q ≠ p → (s.loadCourse p c).car q = none := by
  have each := State.loadCourse_withdraws p changed
  generalize s.loadCourse p c = u at each
  obtain ⟨rest, gone, kept⟩ := each.leaves
  have places : u.EntryPlaces := by
    refine State.EntryPlaces.withdrawnEach ?_ each
    exact ⟨entries.nodup, entries.places⟩
  have alone : s.entryList.filter (fun q => q ∉ s.otherEntered p) = [p] := by
    refine List.perm_singleton.mp ((List.perm_ext_iff_of_nodup (entries.nodup.filter _)
      (List.nodup_singleton p)).mpr fun q => ?_)
    rw [List.mem_filter, complete, List.mem_singleton, decide_eq_true_iff, State.mem_otherEntered,
      State.isRacePort]
    constructor
    · rintro ⟨there, left⟩
      obtain ⟨d, there⟩ := Option.isSome_iff_exists.mp there
      exact Classical.byContradiction fun other => left ⟨other, entered q d there⟩
    · rintro rfl
      exact ⟨by rw [car]; rfl, fun h => h.1 rfl⟩
  have list : u.entryList = [p] := by rw [rest]; exact alone
  refine ⟨?_, ?_, fun q other => ?_⟩
  · rw [← list]
    rw [rest]
  · obtain ⟨position, here⟩ := kept p fun h => (State.mem_otherEntered.mp h).1 rfl
    have stays : u.car p = some { own with entryPosition := position } :=
      here.trans (congrArg (Option.map _) car)
    obtain ⟨place, (least : 1 ≤ position)⟩ := places.places p _ stays
    have first : some 0 = some (position - 1) := by
      rw [← place, list]
      simp
    have one : position = 1 := by
      rw [Option.some.injEq] at first
      omega
    rw [stays, one]
  · by_cases withdrawn : q ∈ s.otherEntered p
    · exact gone q withdrawn
    · obtain ⟨position, here⟩ := kept q withdrawn
      rw [here]
      cases there : s.car q with
      | none => exact congrArg (Option.map _) there
      | some d => exact absurd (State.mem_otherEntered.mpr ⟨other, entered q d there⟩) withdrawn

/-! ### The grant -/

/-- A port that is the same but for its notices is the same but for its notices and its push timer. -/
theorem PortState.SameButNotices.andPush {c d : PortState} (h : c.SameButNotices d) :
    c.SameButNoticesAndPush d := by
  unfold PortState.SameButNoticesAndPush
  rw [h]

theorem State.requestTaken_pushTimer (s : State) (p q : Port) :
    ((s.requestTaken p).port q).pushTimer = (s.port q).pushTimer := by
  unfold State.requestTaken
  rw [State.modifyPort_port]
  split
  · next own => rw [own]; rfl
  · rfl

theorem performLoadCourse_accepted {s : State} {p : Port} {r : Request} {c : Course}
    (free : (s.port p).fenced = false) (forming : s.race.phase = .forming)
    (opener : s.race.opener = some p) (defined : courseOf r.payload = some c) :
    performLoadCourse p r s = (s.loadCourse p c, .loadCourse c.checkValue) := by
  simp [performLoadCourse, free, forming, opener, defined, Phase.locked]

/-- Settles O15: the accepted LOAD_COURSE is performed between the two ends of its grant, and its
withdrawals are those of R52 one after another. -/
theorem loadCourseReplacesTheCourse : Obligations.LoadCourseReplacesTheCourse := by
  intro s p r c granted free forming opener defined
  obtain ⟨gates, -, course, -⟩ := (courseOf_eq_some_iff _ _).mp defined
  let v := (s.requestTaken p).loadCourse p c
  have done : performLoadCourse p r (s.requestTaken p) = (v, .loadCourse c.checkValue) :=
    performLoadCourse_accepted (by simp [State.requestTaken, free]) forming opener defined
  have performed : exec (.loadCourse p) s = .next (v.responsePlaced p (.loadCourse c.checkValue)) :=
    congrArg _ (State.grant_ends granted done)
  refine ⟨by rw [course], by rw [course], fun quiet => ?_, fun own race order car changed => ?_,
    fun changed => ?_⟩
  · have same : v = { s.requestTaken p with course := some c } := by
      refine State.loadCourse_same (quiet.imp_right fun nobody => ?_)
      refine List.eq_nil_iff_forall_not_mem.mpr fun q other => ?_
      obtain ⟨other, entered⟩ := State.mem_otherEntered.mp other
      exact nobody q other entered
    rw [performed, same, State.answered, ← State.modifyPort_modifyPort]
    rfl
  · obtain ⟨entries, complete⟩ := order.entryList (by rw [forming]; rfl)
    obtain ⟨rest, opener, others⟩ := State.loadCourse_leaves_opener (s := s.requestTaken p)
      ⟨entries.nodup, entries.places⟩ complete (fun q d => race.entered forming) car changed
    have phase : v.race = s.race := by rw [show v = _ from rest]; rfl
    refine ⟨_, performed, congrArg (State.responsePlaced p (.loadCourse c.checkValue)) rest, opener,
      others, ?_⟩
    rw [← State.grant_ends granted done]
    have ports := fun q => (s.requestTaken p).loadCourse_ports p q c
    refine State.grant_frame granted done (fun q => (ports q).andPush) (fun _ q => ?_)
      (fun started ended => ?_) (by rw [show v = _ from rest]; rfl) (by rw [show v = _ from rest]; rfl)
    · rw [show v.port q = _ from ports q]
      exact State.requestTaken_pushTimer s p q
    · exact absurd (phase ▸ ended) started
  · exact ⟨(s.requestTaken p).otherEntered p, v, fun q => State.mem_otherEntered,
      State.otherEntered_sorted _ p, State.loadCourse_withdraws p changed, performed⟩

end Sys2Proof.Machine
end

section
/-! PROOF. A sound race in its parts (02 Table 2.4): the race record by itself, the course, the lists and the
clock beside it, the cars in it, and the slots that are taken. -/
namespace Sys2Proof.Machine

/-! ### The parts -/

/-- The race record agrees with its own phase. -/
structure RaceRecord.Sound (r : RaceRecord) : Prop where
  opener : r.opener.isSome = true ↔ r.phase = .forming
  hold : r.holdSlot.isSome = true → r.phase = .countdown
  countdown : r.countdown.isSome = true ↔ r.phase = .countdown ∧ r.holdSlot = none
  entryWindow : r.entryWindow.isSome = true ↔ r.phase = .forming
  gridWait : r.gridWait.isSome = true ↔ r.phase = .grid
  closing : r.closingWindow.isSome = true ↔ r.phase = .finishing
  resultsHold : r.resultsHold.isSome = true ↔ r.phase = .results
  votes : ∀ p : Port, (r.votes.get p).isSome = true → r.phase.running = true
  released : ∀ p : Port, r.releaseSet.get p = true → r.phase = .results
  reason : r.resultsReason.isSome = true ↔ r.phase = .results

/-- The course, the lists, the results table and the race clock agree with the phase. -/
structure State.StoresSound (s : State) : Prop where
  courseLocked : s.race.phase.locked = true → s.course.isSome = true
  courseIdle : s.race.phase = .idle → s.course = none
  entryIdle : s.race.phase = .idle → s.entryList = []
  groupsBefore : s.race.phase.afterGreen = false →
    s.activeGroup = [] ∧ s.retiredGroup = [] ∧ s.finishList = []
  table : s.resultsTable.isSome = true ↔ s.race.phase = .results
  clock : s.race.phase.afterGreen = false → s.raceClock = 0

/-- The standing of the car in a slot, if there is one. -/
def State.standingOf (s : State) (p : Port) : Option Standing := (s.car p).map Car.standing

/-- Every car's standing occurs in the phase, a port that votes has a car that counts, and a released port is
a race port. -/
structure State.CarsSound (s : State) : Prop where
  standings : ∀ (p : Port) (x : Standing), s.standingOf p = some x → s.race.phase.allows x = true
  votes : ∀ p : Port, (s.race.votes.get p).isSome = true →
    ∃ x : Standing, s.standingOf p = some x ∧ x.eligible = true
  released : ∀ p : Port, s.race.releaseSet.get p = true → s.isRacePort p = true

/-- A race that is sound but for the slots that must be taken, as it is between a withdrawal and its tests. -/
structure State.Legal (s : State) : Prop where
  record : s.race.Sound
  stores : s.StoresSound
  cars : s.CarsSound

/-- The slots that must be taken: the opener's, and some slot in every phase but IDLE (R22, R29). -/
structure State.Taken (s : State) : Prop where
  opener : ∀ p : Port, s.race.opener = some p → s.isRacePort p = true
  someCar : s.race.phase ≠ .idle → ∃ p : Port, s.isRacePort p = true

theorem State.standingOf_eq_some_iff {s : State} {p : Port} {x : Standing} :
    s.standingOf p = some x ↔ ∃ c : Car, s.car p = some c ∧ c.standing = x :=
  Option.map_eq_some_iff

theorem State.standingOf_of {s : State} {p : Port} {c : Car} (h : s.car p = some c) :
    s.standingOf p = some c.standing := by
  rw [State.standingOf, h]; rfl

/-- A race port is one whose slot has a standing. -/
theorem State.isRacePort_eq (s : State) (p : Port) : s.isRacePort p = (s.standingOf p).isSome :=
  Option.isSome_map.symm

theorem State.isRacePort_of {s : State} {p : Port} {x : Standing} (h : s.standingOf p = some x) :
    s.isRacePort p = true := by
  rw [State.isRacePort_eq, h]; rfl

theorem State.standingOf_of_carState {s : State} {p : Port} {x : CarState} (h : s.carState p = x)
    (there : x ≠ .empty) : ∃ y : Standing, s.standingOf p = some y ∧ y.state = x := by
  unfold State.carState at h
  unfold State.standingOf
  cases car : s.car p with
  | none => rw [car] at h; exact absurd h.symm there
  | some c => rw [car] at h; exact ⟨c.standing, rfl, h⟩

theorem State.carCount_pos_iff (s : State) : 0 < s.carCount ↔ ∃ p : Port, s.isRacePort p = true := by
  rw [Nat.pos_iff_ne_zero, ne_eq, State.carCount_zero_iff, not_forall]
  exact exists_congr fun p => Option.ne_none_iff_isSome

/-- A race is sound exactly when it is legal and its slots are taken. -/
theorem State.raceSound_iff (s : State) : s.RaceSound ↔ s.Legal ∧ s.Taken := by
  constructor
  · intro h
    have record : s.race.Sound :=
      ⟨h.opener, h.hold, h.countdown, h.entryWindow, h.gridWait, h.closing, h.resultsHold,
        fun p voted => (h.votes p voted).1, fun p set => (h.released p set).1, h.reason⟩
    have stores : s.StoresSound :=
      ⟨h.courseLocked, h.courseIdle, h.entryIdle, h.groupsBefore, h.table, h.clock⟩
    refine ⟨⟨record, stores, fun p x stands => ?_, fun p voted => ?_,
      fun p set => (h.released p set).2⟩, fun p own => ?_,
      fun started => s.carCount_pos_iff.mp (h.someCar started)⟩
    · obtain ⟨c, car, rfl⟩ := State.standingOf_eq_some_iff.mp stands
      exact h.standings p c car
    · obtain ⟨-, c, car, counts⟩ := h.votes p voted
      exact ⟨c.standing, State.standingOf_of car, counts⟩
    · obtain ⟨x, stands, -⟩ := State.standingOf_of_carState (h.openerEntered p own) (by decide)
      exact State.isRacePort_of stands
  · rintro ⟨⟨record, stores, cars⟩, taken⟩
    exact {
      opener := record.opener
      openerEntered := fun p own => by
        obtain ⟨c, car⟩ := Option.isSome_iff_exists.mp (taken.opener p own)
        have allowed := cars.standings p _ (State.standingOf_of car)
        rw [record.opener.mp (by rw [own]; rfl)] at allowed
        rw [State.carState_of car, of_decide_eq_true allowed]
        rfl
      standings := fun p c car => cars.standings p _ (State.standingOf_of car)
      someCar := fun started => s.carCount_pos_iff.mpr (taken.someCar started)
      courseLocked := stores.courseLocked
      courseIdle := stores.courseIdle
      entryIdle := stores.entryIdle
      groupsBefore := stores.groupsBefore
      hold := record.hold
      countdown := record.countdown
      entryWindow := record.entryWindow
      gridWait := record.gridWait
      closing := record.closing
      resultsHold := record.resultsHold
      votes := fun p voted => by
        obtain ⟨x, stands, counts⟩ := cars.votes p voted
        obtain ⟨c, car, rfl⟩ := State.standingOf_eq_some_iff.mp stands
        exact ⟨record.votes p voted, c, car, counts⟩
      released := fun p set => ⟨record.released p set, cars.released p set⟩
      reason := record.reason
      table := stores.table
      clock := stores.clock }

theorem State.RaceSound.legal {s : State} (h : s.RaceSound) : s.Legal := (s.raceSound_iff.mp h).1

theorem State.RaceSound.taken {s : State} (h : s.RaceSound) : s.Taken := (s.raceSound_iff.mp h).2

theorem State.Legal.raceSound {s : State} (h : s.Legal) (taken : s.Taken) : s.RaceSound :=
  s.raceSound_iff.mpr ⟨h, taken⟩

/-! ### The race record from phase to phase

Each part of `RaceRecord.Sound` is a condition on the phase and one field, so that each of these changes is
checked field by field. -/

/-- The record that a return to IDLE leaves (R40). -/
theorem RaceRecord.cleared_sound (r : RaceRecord) : r.cleared.Sound := by
  constructor <;> simp [RaceRecord.cleared, RaceRecord.reset]

theorem RaceRecord.Sound.openRace {r : RaceRecord} (h : r.Sound) (idle : r.phase = .idle) (p : Port)
    (number : Nat) (settings : Settings) :
    ({ r with number := number, phase := .forming, opener := some p, settings := settings
              entryWindow := some 0 } : RaceRecord).Sound := by
  cases h
  constructor <;> simp_all [Phase.running]

theorem RaceRecord.Sound.enterGrid {r : RaceRecord} (h : r.Sound) (forming : r.phase = .forming)
    (wait : Nat) :
    ({ r with phase := .grid, opener := none, entryWindow := none
              gridWait := some wait } : RaceRecord).Sound := by
  cases h
  constructor <;> simp_all [Phase.running]

theorem RaceRecord.Sound.enterCountdown {r : RaceRecord} (h : r.Sound) (grid : r.phase = .grid)
    {slot : Option Nat} {timer : Timer} (either : timer.isSome = slot.isNone) :
    ({ r with phase := .countdown, gridWait := none, holdSlot := slot
              countdown := timer } : RaceRecord).Sound := by
  cases h
  constructor <;> simp_all [Phase.running]

theorem RaceRecord.Sound.setHold {r : RaceRecord} (h : r.Sound) (count : r.phase = .countdown)
    {slot : Option Nat} {timer : Timer} (either : timer.isSome = slot.isNone) :
    ({ r with holdSlot := slot, countdown := timer } : RaceRecord).Sound := by
  cases h
  constructor <;> simp_all [Phase.running]

theorem RaceRecord.Sound.enterGreen {r : RaceRecord} (h : r.Sound) (count : r.phase = .countdown)
    (free : r.holdSlot = none) : ({ r with phase := .green, countdown := none } : RaceRecord).Sound := by
  cases h
  constructor <;> simp_all [Phase.running]

theorem RaceRecord.Sound.enterFinishing {r : RaceRecord} (h : r.Sound) (running : r.phase.running = true)
    (window : Nat) :
    ({ r with phase := .finishing, closingWindow := some window } : RaceRecord).Sound := by
  cases h
  cases phase : r.phase <;> constructor <;> simp_all [Phase.running]

theorem RaceRecord.Sound.enterResults {r : RaceRecord} (h : r.Sound) (running : r.phase.running = true)
    (reason : Reason) (released : Bank Bool) (hold : Nat) :
    ({ r with phase := .results, resultsReason := some reason, closingWindow := none, votes := .fill none
              releaseSet := released, resultsHold := some hold } : RaceRecord).Sound := by
  cases h
  cases phase : r.phase <;> constructor <;> simp_all [Phase.running]

theorem RaceRecord.Sound.setVotes {r : RaceRecord} (h : r.Sound) (running : r.phase.running = true)
    (votes : Bank (Option Nat)) : ({ r with votes := votes } : RaceRecord).Sound := by
  exact { h with votes := fun _ _ => running }

theorem RaceRecord.Sound.setReleased {r : RaceRecord} (h : r.Sound) (results : r.phase = .results)
    (released : Bank Bool) : ({ r with releaseSet := released } : RaceRecord).Sound := by
  exact { h with released := fun _ _ => results }

/-- A timer that counts runs on, and one that is stopped stays so. -/
theorem RaceRecord.Sound.tick {r : RaceRecord} (h : r.Sound) : r.tick.Sound where
  opener := h.opener
  hold := h.hold
  countdown := (Eq.congr_left Option.isSome_map).trans h.countdown
  entryWindow := (Eq.congr_left Option.isSome_map).trans h.entryWindow
  gridWait := (Eq.congr_left Option.isSome_map).trans h.gridWait
  closing := (Eq.congr_left Option.isSome_map).trans h.closing
  resultsHold := (Eq.congr_left Option.isSome_map).trans h.resultsHold
  votes := h.votes
  released := h.released
  reason := h.reason

end Sys2Proof.Machine
end

section
/-! PROOF. Changes that keep a sound race: those that leave the phase, the stores and the standings, and those
of one car's standing. -/
namespace Sys2Proof.Machine

/-! ### The stores -/

/-- The phase, the course, the results table and the race clock are the same, and the lists stay empty where a
sound race has them empty. -/
structure State.SameStores (s t : State) : Prop where
  phase : t.race.phase = s.race.phase
  course : t.course = s.course
  entryList : s.entryList = [] → t.entryList = []
  groups : s.race.phase.afterGreen = false → t.activeGroup = s.activeGroup ∧
    t.retiredGroup = s.retiredGroup ∧ t.finishList = s.finishList
  table : t.resultsTable = s.resultsTable
  clock : t.raceClock = s.raceClock

theorem State.SameStores.refl (s : State) : s.SameStores s :=
  ⟨rfl, rfl, id, fun _ => ⟨rfl, rfl, rfl⟩, rfl, rfl⟩

theorem State.SameStores.trans {s t u : State} (h : s.SameStores t) (k : t.SameStores u) :
    s.SameStores u where
  phase := k.phase.trans h.phase
  course := k.course.trans h.course
  entryList := fun empty => k.entryList (h.entryList empty)
  groups := fun before => by
    obtain ⟨active, retired, finished⟩ := h.groups before
    obtain ⟨active', retired', finished'⟩ := k.groups (by rw [h.phase]; exact before)
    exact ⟨active'.trans active, retired'.trans retired, finished'.trans finished⟩
  table := k.table.trans h.table
  clock := k.clock.trans h.clock

theorem State.StoresSound.of_same {s t : State} (h : s.StoresSound) (same : s.SameStores t) :
    t.StoresSound where
  courseLocked := by rw [same.phase, same.course]; exact h.courseLocked
  courseIdle := by rw [same.phase, same.course]; exact h.courseIdle
  entryIdle := by rw [same.phase]; exact fun idle => same.entryList (h.entryIdle idle)
  groupsBefore := by
    rw [same.phase]
    intro before
    obtain ⟨active, retired, finished⟩ := same.groups before
    rw [active, retired, finished]
    exact h.groupsBefore before
  table := by rw [same.phase, same.table]; exact h.table
  clock := by rw [same.phase, same.clock]; exact h.clock

/-! ### The same standings -/

/-- The race record and every car's standing are the same, and the stores are. -/
structure State.SameStandings (s t : State) : Prop where
  stores : s.SameStores t
  race : t.race = s.race
  standings : ∀ q : Port, t.standingOf q = s.standingOf q

theorem State.SameStandings.refl (s : State) : s.SameStandings s := ⟨.refl s, rfl, fun _ => rfl⟩

theorem State.SameStandings.trans {s t u : State} (h : s.SameStandings t) (k : t.SameStandings u) :
    s.SameStandings u :=
  ⟨h.stores.trans k.stores, k.race.trans h.race, fun q => (k.standings q).trans (h.standings q)⟩

theorem State.SameStandings.isRacePort {s t : State} (h : s.SameStandings t) (q : Port) :
    t.isRacePort q = s.isRacePort q := by
  rw [State.isRacePort_eq, State.isRacePort_eq, h.standings]

theorem State.SameStandings.legal {s t : State} (h : s.SameStandings t) (sound : s.Legal) : t.Legal where
  record := by rw [h.race]; exact sound.record
  stores := sound.stores.of_same h.stores
  cars := {
    standings := fun p x => by rw [h.race, h.standings]; exact sound.cars.standings p x
    votes := fun p => by rw [h.race, h.standings]; exact sound.cars.votes p
    released := fun p => by rw [h.race, h.isRacePort]; exact sound.cars.released p }

theorem State.SameStandings.taken {s t : State} (h : s.SameStandings t) (taken : s.Taken) : t.Taken where
  opener := fun p => by rw [h.race, h.isRacePort]; exact taken.opener p
  someCar := by rw [h.race]; simpa only [h.isRacePort] using taken.someCar

theorem State.SameStandings.sound {s t : State} (h : s.SameStandings t) (sound : s.RaceSound) :
    t.RaceSound :=
  (h.legal sound.legal).raceSound (h.taken sound.taken)

/-- What holds the same race state has the same standings. -/
theorem State.SameRace.sameStandings {s t : State} (h : s.SameRace t) : s.SameStandings t where
  stores := ⟨by rw [h.race], h.course, by rw [h.entryList]; exact id,
    fun _ => ⟨h.activeGroup, h.retiredGroup, h.finishList⟩, h.resultsTable, h.raceClock⟩
  race := h.race
  standings := fun q => by rw [State.standingOf, State.car, h.cars]; rfl

theorem State.OnlyNotices.sameRace {s t : State} (h : s.OnlyNotices t) : s.SameRace t := by
  rw [h.rest]
  exact ⟨rfl, rfl, rfl, rfl, rfl, rfl, rfl, rfl, rfl⟩

theorem State.OnlyNotices.sameStandings {s t : State} (h : s.OnlyNotices t) : s.SameStandings t :=
  h.sameRace.sameStandings

theorem State.modifyPort_sameRace (s : State) (p : Port) (f : PortState → PortState) :
    s.SameRace (s.modifyPort p f) :=
  ⟨rfl, rfl, rfl, rfl, rfl, rfl, rfl, rfl, rfl⟩

theorem State.setPointer_sameRace (s : State) (p : Port) : s.SameRace { s with raaPointer := p } :=
  ⟨rfl, rfl, rfl, rfl, rfl, rfl, rfl, rfl, rfl⟩

theorem State.setPending_sameRace (s : State) (commands : List Instr) :
    s.SameRace { s with pending := commands } :=
  ⟨rfl, rfl, rfl, rfl, rfl, rfl, rfl, rfl, rfl⟩

/-! ### The record of one car -/

theorem State.modifyCar_standingOf_ne {s : State} {p q : Port} (f : Car → Car) (other : q ≠ p) :
    (s.modifyCar p f).standingOf q = s.standingOf q := by
  rw [State.standingOf, State.modifyCar_car_ne _ _ other, State.standingOf]

theorem State.modifyCar_standingOf_self (s : State) (p : Port) (f : Car → Car) :
    (s.modifyCar p f).standingOf p = (s.car p).map fun c => (f c).standing := by
  rw [State.standingOf, State.modifyCar_car_self, Option.map_map]; rfl

theorem State.modifyCar_sameStores (s : State) (p : Port) (f : Car → Car) :
    s.SameStores (s.modifyCar p f) :=
  ⟨rfl, rfl, id, fun _ => ⟨rfl, rfl, rfl⟩, rfl, rfl⟩

theorem State.modifyCar_sameStandings {s : State} {p : Port} {f : Car → Car}
    (same : ∀ c, s.car p = some c → (f c).standing = c.standing) : s.SameStandings (s.modifyCar p f) where
  stores := s.modifyCar_sameStores p f
  race := rfl
  standings := fun q => by
    by_cases e : q = p
    · subst e
      rw [State.modifyCar_standingOf_self, State.standingOf]
      exact Option.map_congr same
    · exact State.modifyCar_standingOf_ne f e

/-- The standing of one car changes to one that occurs in the phase, and that counts where the port votes; the
race record and the other cars' standings are the same. -/
structure State.Restands (p : Port) (x : Standing) (s t : State) : Prop where
  stores : s.SameStores t
  race : t.race = s.race
  own : t.standingOf p = (s.standingOf p).map fun _ => x
  others : ∀ q : Port, q ≠ p → t.standingOf q = s.standingOf q

theorem State.Restands.isRacePort {s t : State} {p : Port} {x : Standing} (h : s.Restands p x t) (q : Port) :
    t.isRacePort q = s.isRacePort q := by
  rw [State.isRacePort_eq, State.isRacePort_eq]
  by_cases e : q = p
  · rw [e, h.own, Option.isSome_map]
  · rw [h.others q e]

/-- A car may change to any standing that occurs in the phase, and that counts where the port votes. -/
theorem State.Restands.sound {s t : State} {p : Port} {x : Standing} (h : s.Restands p x t)
    (sound : s.RaceSound) (allowed : s.race.phase.allows x = true)
    (counts : (s.race.votes.get p).isSome = true → x.eligible = true) : t.RaceSound := by
  have legal := sound.legal
  refine State.Legal.raceSound ⟨?_, legal.stores.of_same h.stores, ?_, ?_, ?_⟩ ⟨?_, ?_⟩
  · rw [h.race]; exact legal.record
  · intro q y stands
    rw [h.race]
    by_cases e : q = p
    · rw [e, h.own] at stands
      obtain ⟨-, -, rfl⟩ := Option.map_eq_some_iff.mp stands
      exact allowed
    · rw [h.others q e] at stands
      exact legal.cars.standings q y stands
  · intro q voted
    rw [h.race] at voted
    obtain ⟨y, stands, eligible⟩ := legal.cars.votes q voted
    by_cases e : q = p
    · rw [e] at stands voted ⊢
      exact ⟨x, by rw [h.own, stands]; rfl, counts voted⟩
    · exact ⟨y, by rw [h.others q e]; exact stands, eligible⟩
  · intro q
    rw [h.race, h.isRacePort]
    exact legal.cars.released q
  · intro q
    rw [h.race, h.isRacePort]
    exact sound.taken.opener q
  · rw [h.race]
    simpa only [h.isRacePort] using sound.taken.someCar

theorem State.modifyCar_restands (s : State) (p : Port) (x : Standing) :
    s.Restands p x (s.modifyCar p fun c => { c with standing := x }) where
  stores := s.modifyCar_sameStores p _
  race := rfl
  own := by rw [State.modifyCar_standingOf_self, State.standingOf, Option.map_map]; rfl
  others := fun _ other => State.modifyCar_standingOf_ne _ other

theorem State.Restands.told {s t u : State} {p : Port} {x : Standing} (h : s.Restands p x t)
    (only : t.OnlyNotices u) : s.Restands p x u := by
  have same := only.sameStandings
  exact ⟨h.stores.trans same.stores, same.race.trans h.race, (same.standings p).trans h.own,
    fun q other => (same.standings q).trans (h.others q other)⟩

end Sys2Proof.Machine
end

section
/-! PROOF. A sound race from phase to phase (02 Table 2.4): the return to IDLE, the entries into GRID,
COUNTDOWN, GREEN, FINISHING and RESULTS, the hold, and the withdrawals with their tests. -/
namespace Sys2Proof.Machine

/-! ### Changes of the race record -/

theorem State.modifyRace_sameStores {s : State} {f : RaceRecord → RaceRecord}
    (phase : (f s.race).phase = s.race.phase) : s.SameStores (s.modifyRace f) :=
  ⟨phase, rfl, id, fun _ => ⟨rfl, rfl, rfl⟩, rfl, rfl⟩

/-- The stores of a race that moves on within one side of the green, to or from neither IDLE nor RESULTS. -/
theorem State.StoresSound.modifyRace {s : State} {f : RaceRecord → RaceRecord} (h : s.StoresSound)
    (started : (f s.race).phase ≠ .idle)
    (loaded : (f s.race).phase.locked = true → s.course.isSome = true)
    (side : (f s.race).phase.afterGreen = s.race.phase.afterGreen)
    (results : (f s.race).phase = .results ↔ s.race.phase = .results) : (s.modifyRace f).StoresSound where
  courseLocked := loaded
  courseIdle := fun idle => absurd idle started
  entryIdle := fun idle => absurd idle started
  groupsBefore := fun before => h.groupsBefore (side.symm.trans before)
  table := h.table.trans results.symm
  clock := fun before => h.clock (side.symm.trans before)

/-- The cars of a race whose record keeps the votes and the release set, in a phase in which they all
occur. -/
theorem State.CarsSound.modifyRace {s : State} {f : RaceRecord → RaceRecord} (h : s.CarsSound)
    (allows : ∀ (q : Port) (x : Standing), s.standingOf q = some x → (f s.race).phase.allows x = true)
    (votes : (f s.race).votes = s.race.votes) (released : (f s.race).releaseSet = s.race.releaseSet) :
    (s.modifyRace f).CarsSound where
  standings := allows
  votes := fun p voted => h.votes p (votes ▸ voted)
  released := fun p set => h.released p (released ▸ set)

theorem State.Taken.modifyRace {s : State} {f : RaceRecord → RaceRecord} (h : s.Taken)
    (started : s.race.phase ≠ .idle)
    (opener : (f s.race).opener = s.race.opener ∨ (f s.race).opener = none) :
    (s.modifyRace f).Taken where
  opener := fun p (own : (f s.race).opener = some p) => by
    rcases opener with same | gone
    · exact h.opener p (same ▸ own)
    · rw [gone] at own; exact absurd own (by simp)
  someCar := fun _ => h.someCar started

/-- Outside FORMING no slot must be taken but one (R22). -/
theorem State.Legal.raceSound_of_car {s : State} (h : s.Legal) (entered : s.race.phase ≠ .forming)
    (car : ∃ p : Port, s.isRacePort p = true) : s.RaceSound :=
  h.raceSound ⟨fun p own => absurd (h.record.opener.mp (by rw [own]; rfl)) entered, fun _ => car⟩

/-! ### Return to IDLE (R38 to R40) -/

/-- Whatever the race was, the return to IDLE leaves a sound one. -/
theorem State.returnToIdle_raceSound (reason : Reason) (s : State) : (s.returnToIdle reason).RaceSound := by
  have back := State.returnToIdle_spec reason s
  have record : (s.returnToIdle reason).race.Sound := by rw [back.race]; exact s.race.cleared_sound
  have idle : (s.returnToIdle reason).race.phase = .idle := by rw [back.race]; rfl
  obtain ⟨entry, active, retired, finished, table⟩ := back.lists
  have empty : ∀ p : Port, (s.returnToIdle reason).standingOf p = none := fun p => by
    rw [State.standingOf, back.cars]; rfl
  refine State.Legal.raceSound ⟨record, ⟨?_, ?_, ?_, ?_, ?_, ?_⟩, ⟨?_, ?_, ?_⟩⟩ ⟨?_, ?_⟩
  · rw [idle]; exact fun locked => absurd locked (by decide)
  · exact fun _ => back.course
  · exact fun _ => entry
  · exact fun _ => ⟨active, retired, finished⟩
  · rw [table, idle]; decide
  · exact fun _ => back.clock.1
  · intro p x stands
    rw [empty] at stands
    exact absurd stands (by simp)
  · intro p voted
    have running := record.votes p voted
    rw [idle] at running
    exact absurd running (by decide)
  · intro p set
    exact absurd (idle.symm.trans (record.released p set)) (by decide)
  · intro p own
    exact absurd (idle.symm.trans (record.opener.mp (by rw [own]; rfl))) (by decide)
  · exact fun started => absurd idle started

/-! ### GRID (R24, R25) -/

/-- With a course loaded a race leaves FORMING for GRID. -/
theorem State.RaceSound.enterGrid {s : State} (h : s.RaceSound) (forming : s.race.phase = .forming)
    (loaded : s.course.isSome = true) : s.enterGrid.RaceSound := by
  have legal := h.legal
  refine (State.notifyPhase_only _ _).sameStandings.sound (State.Legal.raceSound
    ⟨legal.record.enterGrid forming _, legal.stores.modifyRace ?_ ?_ ?_ ?_,
      legal.cars.modifyRace ?_ rfl rfl⟩
    (h.taken.modifyRace ?_ (.inr rfl)))
  · simp
  · exact fun _ => loaded
  · simp [forming, Phase.afterGreen]
  · simp [forming]
  · intro q x stands
    have allowed := legal.cars.standings q x stands
    rw [forming] at allowed
    obtain rfl := of_decide_eq_true allowed
    rfl
  · simp [forming]

theorem State.RaceSound.entryWindowExpiry {s : State} (h : s.RaceSound) : s.entryWindowExpiry.RaceSound := by
  unfold State.entryWindowExpiry
  split
  · next due =>
    split
    · next c loaded => exact h.enterGrid (State.entryWindowDue_forming due) (by rw [loaded]; rfl)
    · exact s.returnToIdle_raceSound _
  · exact h

/-! ### COUNTDOWN and its holds (R27, R113 to R118) -/

/-- A race on the grid whose cars are all READY enters COUNTDOWN, running or held. -/
theorem State.Legal.enterCountdown {s : State} (h : s.Legal) (grid : s.race.phase = .grid)
    (ready : ∀ (q : Port) (x : Standing), s.standingOf q = some x → x = .ready)
    (car : ∃ p : Port, s.isRacePort p = true) : s.enterCountdown.RaceSound := by
  refine s.enterCountdown_only.sameStandings.sound (State.Legal.raceSound_of_car
    ⟨h.record.enterCountdown grid ?_, h.stores.modifyRace ?_ ?_ ?_ ?_,
      h.cars.modifyRace ?_ rfl rfl⟩ ?_ car)
  · cases s.anyReadyLate <;> rfl
  · simp
  · exact fun _ => h.stores.courseLocked (by rw [grid]; rfl)
  · simp [grid, Phase.afterGreen]
  · simp [grid]
  · intro q x stands
    rw [ready q x stands]
    rfl
  · simp

/-- A hold that begins or ends: the slot is occupied exactly while the timer is stopped. -/
theorem State.RaceSound.setHold {s : State} (h : s.RaceSound) (count : s.race.phase = .countdown)
    {slot : Option Nat} {timer : Timer} (either : timer.isSome = slot.isNone) :
    (s.modifyRace fun r => { r with holdSlot := slot, countdown := timer }).RaceSound :=
  State.Legal.raceSound
    ⟨h.legal.record.setHold count either, h.legal.stores.of_same (State.modifyRace_sameStores rfl),
      h.legal.cars.modifyRace h.legal.cars.standings rfl rfl⟩
    (h.taken.modifyRace (by rw [count]; decide) (.inl rfl))

theorem State.RaceSound.holdTest {s : State} (h : s.RaceSound) : s.holdTest.RaceSound := by
  unfold State.holdTest
  split
  · next count =>
    split
    · exact (State.notifyPhase_only _ _).sameStandings.sound (h.setHold count rfl)
    · exact (State.notifyPhase_only _ _).sameStandings.sound (h.setHold count rfl)
    · exact h
    · exact h
  · exact h

/-! ### Withdrawals and their tests (R52, R23, R27, R29, R114) -/

/-- A withdrawal empties its slot and leaves every other standing (R52). -/
theorem State.withdraw_standingOf (s : State) (p q : Port) (reason : Reason) :
    (s.withdraw p reason).standingOf q = if q = p then none else s.standingOf q := by
  cases car : s.car p with
  | none =>
    rw [State.withdraw_none reason car]
    split
    · next e => rw [e, State.standingOf, car]; rfl
    · rfl
  | some c =>
    have gone := State.withdraw_spec reason car
    split
    · next e => rw [e, State.standingOf, gone.gone]; rfl
    · next other =>
      rw [State.standingOf, gone.others q other, State.standingOf, Option.map_map]
      refine Option.map_congr fun d _ => ?_
      simp only [Function.comp]
      split <;> rfl

theorem State.withdraw_isRacePort (s : State) (p q : Port) (reason : Reason) :
    (s.withdraw p reason).isRacePort q = (!decide (q = p) && s.isRacePort q) := by
  rw [State.isRacePort_eq, State.withdraw_standingOf, State.isRacePort_eq]
  by_cases e : q = p <;> simp [e]

theorem State.withdraw_sameStores (s : State) (p : Port) (reason : Reason) :
    s.SameStores (s.withdraw p reason) := by
  cases car : s.car p with
  | none => rw [State.withdraw_none reason car]; exact .refl s
  | some c =>
    rw [(State.withdraw_spec reason car).rest]
    exact ⟨rfl, rfl, fun empty => by simp [empty], fun _ => ⟨rfl, rfl, rfl⟩, rfl, rfl⟩

/-- Before the green a withdrawal leaves a legal race: nobody votes, and nobody is released. -/
theorem State.Legal.withdraw {s : State} (h : s.Legal) (before : s.race.phase.afterGreen = false) (p : Port)
    (reason : Reason) : (s.withdraw p reason).Legal where
  record := by rw [State.withdraw_race]; exact h.record
  stores := h.stores.of_same (s.withdraw_sameStores p reason)
  cars := {
    standings := fun q x stands => by
      rw [State.withdraw_standingOf] at stands
      rw [State.withdraw_race]
      split at stands
      · exact absurd stands (by simp)
      · exact h.cars.standings q x stands
    votes := fun q voted => by
      rw [State.withdraw_race] at voted
      rw [Phase.afterGreen_of_running (h.record.votes q voted)] at before
      exact absurd before (by decide)
    released := fun q set => by
      rw [State.withdraw_race] at set
      rw [h.record.released q set] at before
      exact absurd before (by decide) }

theorem State.Legal.withdrawEach {s : State} (h : s.Legal) (before : s.race.phase.afterGreen = false)
    (reason : Reason) (l : List Port) : (s.withdrawEach l reason).Legal := by
  induction l generalizing s with
  | nil => exact h
  | cons p rest ih => exact ih (h.withdraw before p reason) (by rw [State.withdraw_race]; exact before)

/-- The handover finds the next opener or dissolves the race (R23). -/
theorem State.Legal.handover {s : State} (h : s.Legal) (forming : s.race.phase = .forming) :
    s.handover.RaceSound := by
  unfold State.handover
  split
  · next p found =>
    have entered : s.carState p = .entered := by simpa using List.find?_some found
    obtain ⟨x, stands, -⟩ := State.standingOf_of_carState entered (by decide)
    have here := State.isRacePort_of stands
    refine (State.notifyPhase_only _ _).sameStandings.sound (State.Legal.raceSound
      ⟨{ h.record with opener := by simp [State.modifyRace, forming] },
        h.stores.of_same (State.modifyRace_sameStores rfl), h.cars.modifyRace h.cars.standings rfl rfl⟩
      ⟨fun q own => ?_, fun _ => ⟨p, here⟩⟩)
    obtain rfl := Option.some.inj own
    exact here
  · exact s.returnToIdle_raceSound _

theorem State.exists_racePort_of_carCount {s : State} (cars : s.carCount ≠ 0) :
    ∃ p : Port, s.isRacePort p = true :=
  s.carCount_pos_iff.mp (Nat.pos_of_ne_zero cars)

/-- On the grid a car that is not ENTERED is READY (Table 2.4). -/
theorem State.CarsSound.ready_of_grid {s : State} (h : s.CarsSound) (grid : s.race.phase = .grid) {q : Port}
    {x : Standing} (stands : s.standingOf q = some x) (other : s.carState q ≠ .entered) : x = .ready := by
  obtain ⟨c, car, rfl⟩ := State.standingOf_eq_some_iff.mp stands
  have allowed := h.standings q _ stands
  rw [grid] at allowed
  rw [State.carState_of car] at other
  revert allowed other
  cases c.standing <;> simp [Phase.allows, Standing.state]

/-- A race on the grid whose cars are all READY enters COUNTDOWN (R27). -/
theorem State.Legal.enterCountdown_of_allReady {s : State} (h : s.Legal) (grid : s.race.phase = .grid)
    (all : s.allReady = true) : s.enterCountdown.RaceSound := by
  obtain ⟨⟨p, there⟩, ready⟩ := s.allReady_iff.mp all
  refine h.enterCountdown grid (fun q x stands => ?_) ⟨p, Option.isSome_iff_ne_none.mpr there⟩
  obtain ⟨c, car, -⟩ := State.standingOf_eq_some_iff.mp stands
  refine h.cars.ready_of_grid grid stands ?_
  rw [ready q (by rw [car]; simp)]
  decide

theorem State.Legal.gridTests {s : State} (h : s.Legal) (grid : s.race.phase = .grid) :
    s.gridTests.RaceSound := by
  unfold State.gridTests
  split_ifs with empty all
  · exact s.returnToIdle_raceSound _
  · exact h.enterCountdown_of_allReady grid all
  · exact h.raceSound_of_car (by rw [grid]; decide) (State.exists_racePort_of_carCount empty)

theorem State.Legal.countdownTests {s : State} (h : s.Legal) (count : s.race.phase = .countdown) :
    s.countdownTests.RaceSound := by
  unfold State.countdownTests
  split_ifs with empty
  · exact s.returnToIdle_raceSound _
  · exact (h.raceSound_of_car (by rw [count]; decide) (State.exists_racePort_of_carCount empty)).holdTest

/-- While the opener's car is in the race, another car may leave it (R22). -/
theorem State.RaceSound.withdraw_other {s : State} {p : Port} (h : s.RaceSound)
    (forming : s.race.phase = .forming) (other : s.race.opener ≠ some p) (reason : Reason) :
    (s.withdraw p reason).RaceSound := by
  have opener : ∀ q : Port, s.race.opener = some q →
      (s.withdraw p reason).isRacePort q = true := fun q own => by
    rw [State.withdraw_isRacePort, h.taken.opener q own, Bool.and_true]
    simpa using fun same : q = p => other (same ▸ own)
  obtain ⟨q, own⟩ := Option.isSome_iff_exists.mp (h.opener.mpr forming)
  refine (h.legal.withdraw (by rw [forming]; rfl) p reason).raceSound
    ⟨fun x there => opener x ?_, fun _ => ⟨q, opener q own⟩⟩
  rw [State.withdraw_race] at there
  exact there

/-- Before the green a withdrawal with its tests keeps the race sound. -/
theorem State.RaceSound.withdrawAndTest {s : State} (h : s.RaceSound)
    (before : s.race.phase.afterGreen = false) (started : s.race.phase ≠ .idle) (p : Port)
    (reason : Reason) :
    (s.withdrawAndTest p reason).RaceSound := by
  have left := h.legal.withdraw before p reason
  have race := s.withdraw_race p reason
  unfold State.withdrawAndTest
  dsimp only
  cases phase : s.race.phase with
  | forming =>
    rw [race, phase]
    dsimp only
    split
    · exact left.handover (by rw [race, phase])
    · next other => exact h.withdraw_other phase other reason
  | grid =>
    rw [race, phase]
    exact left.gridTests (by rw [race, phase])
  | countdown =>
    rw [race, phase]
    exact left.countdownTests (by rw [race, phase])
  | idle => exact absurd phase started
  | green | finishing | results => rw [phase] at before; exact absurd before (by decide)

/-! ### The end of the grid wait (R28) -/

/-- Several withdrawals of one event empty their slots and leave every other standing (R52). -/
theorem State.withdrawEach_standingOf (reason : Reason) (l : List Port) (s : State) (q : Port) :
    (s.withdrawEach l reason).standingOf q = if q ∈ l then none else s.standingOf q := by
  induction l generalizing s with
  | nil => rfl
  | cons p rest ih =>
    refine (ih (s.withdraw p reason)).trans ?_
    rw [State.withdraw_standingOf]
    by_cases e : q = p <;> simp [e]

theorem State.mem_enteredPorts {s : State} {q : Port} : q ∈ s.enteredPorts ↔ s.carState q = .entered := by
  simp [State.enteredPorts, mem_allPorts]

/-- The end of the grid wait leaves READY cars alone, and those enter COUNTDOWN. -/
theorem State.RaceSound.gridWaitExpiry {s : State} (h : s.RaceSound) : s.gridWaitExpiry.RaceSound := by
  unfold State.gridWaitExpiry
  split
  · next due =>
    obtain ⟨grid, -⟩ := due
    have left := h.legal.withdrawEach (by rw [grid]; rfl) .readyMissed s.enteredPorts
    have race := (State.withdrawEach_keepsDistances .readyMissed s.enteredPorts s).2
    dsimp only
    split
    · exact State.returnToIdle_raceSound _ _
    · next some =>
      refine left.enterCountdown (by rw [race, grid]) (fun q x stands => ?_)
        (State.exists_racePort_of_carCount some)
      rw [State.withdrawEach_standingOf] at stands
      split at stands
      · exact absurd stands (by simp)
      · next kept => exact h.legal.cars.ready_of_grid grid stands (mt State.mem_enteredPorts.mpr kept)
  · exact h

/-! ### GREEN and FINISHING (R30, R32) -/

/-- In COUNTDOWN every car is READY (Table 2.4). -/
theorem State.RaceSound.ready_of_countdown {s : State} (h : s.RaceSound) (count : s.race.phase = .countdown)
    {q : Port} {c : Car} (car : s.car q = some c) : c.standing = .ready := by
  have allowed := h.standings q c car
  rw [count] at allowed
  exact of_decide_eq_true allowed

/-- At the green every car is RACING (R30). -/
theorem State.RaceSound.enterGreen_standingOf {s : State} (h : s.RaceSound)
    (count : s.race.phase = .countdown) (q : Port) :
    s.enterGreen.standingOf q = (s.standingOf q).map fun _ => .racing := by
  unfold State.enterGreen
  rw [State.standingOf, State.notifyPhase_car, State.standingOf]
  simp only [State.car, Bank.get_map, Option.map_map]
  refine Option.map_congr fun c car => ?_
  simp [Car.start, h.ready_of_countdown count car]

theorem State.RaceSound.enterGreen {s : State} (h : s.RaceSound) (count : s.race.phase = .countdown)
    (free : s.race.holdSlot = none) : s.enterGreen.RaceSound := by
  have legal := h.legal
  have stands := h.enterGreen_standingOf count
  have ports : ∀ q : Port, s.enterGreen.isRacePort q = s.isRacePort q := fun q => by
    rw [State.isRacePort_eq, stands, Option.isSome_map, State.isRacePort_eq]
  refine State.Legal.raceSound_of_car
    ⟨legal.record.enterGreen count free, ⟨?_, ?_, ?_, ?_, ?_, ?_⟩, ⟨?_, ?_, ?_⟩⟩ ?_ ?_
  · exact fun _ => legal.stores.courseLocked (by rw [count]; rfl)
  · exact fun idle => absurd idle (by simp [State.enterGreen])
  · exact fun idle => absurd idle (by simp [State.enterGreen])
  · exact fun before => absurd before (by simp [State.enterGreen, Phase.afterGreen])
  · simpa [State.enterGreen, count] using legal.stores.table
  · exact fun _ => rfl
  · intro q x racing
    rw [stands] at racing
    obtain ⟨-, -, rfl⟩ := Option.map_eq_some_iff.mp racing
    rfl
  · intro q voted
    have running := legal.record.votes q voted
    rw [count] at running
    exact absurd running (by decide)
  · intro q set
    rw [ports]
    exact legal.cars.released q set
  · simp [State.enterGreen]
  · simpa only [ports] using h.taken.someCar (by rw [count]; decide)

theorem State.RaceSound.countdownExpiry {s : State} (h : s.RaceSound) : s.countdownExpiry.RaceSound := by
  unfold State.countdownExpiry
  split
  · next due =>
    obtain ⟨count, -, free⟩ := due
    exact h.enterGreen count free
  · exact h

/-- The race as it is in FINISHING. A car that finishes in GREEN is FINISHED there, before the end tests have
ended the phase (R32): the state between is sound but for its phase. -/
def State.asFinishing (s : State) : State :=
  s.modifyRace fun r => { r with phase := .finishing, closingWindow := some r.settings.closingWindow }

/-- What occurs in GREEN or FINISHING occurs in FINISHING (Table 2.4). -/
theorem Phase.allows_finishing {x : Phase} {y : Standing} (running : x.running = true)
    (allowed : x.allows y = true) : Phase.finishing.allows y = true := by
  cases x with
  | green => cases y with
    | racing | coasting | retired _ _ => rfl
    | entered | ready | finished _ | stopped => exact absurd allowed Bool.false_ne_true
  | finishing => exact allowed
  | idle | forming | grid | countdown | results => exact absurd running Bool.false_ne_true

theorem Phase.ne_idle_of_running {x : Phase} (running : x.running = true) : x ≠ .idle := by
  rintro rfl
  exact absurd running (by decide)

theorem Phase.ne_results_of_running {x : Phase} (running : x.running = true) : x ≠ .results := by
  rintro rfl
  exact absurd running (by decide)

theorem Phase.locked_of_running {x : Phase} (running : x.running = true) : x.locked = true := by
  cases x with
  | green | finishing => rfl
  | idle | forming | grid | countdown | results => exact absurd running Bool.false_ne_true

theorem State.RaceSound.asFinishing {s : State} (h : s.RaceSound) (running : s.race.phase.running = true) :
    s.asFinishing.RaceSound := by
  have legal := h.legal
  refine State.Legal.raceSound_of_car
    ⟨legal.record.enterFinishing running _, legal.stores.modifyRace ?_ ?_ ?_ ?_,
      legal.cars.modifyRace ?_ rfl rfl⟩ ?_ ?_
  · simp
  · exact fun _ => legal.stores.courseLocked (Phase.locked_of_running running)
  · exact (Phase.afterGreen_of_running running).symm
  · simpa using Phase.ne_results_of_running running
  · exact fun q x stands => Phase.allows_finishing running (legal.cars.standings q x stands)
  · simp [State.asFinishing]
  · exact h.taken.someCar (Phase.ne_idle_of_running running)

/-! ### RESULTS and the release (R36, R37) -/

theorem State.RaceSound.releaseTest {s : State} (h : s.RaceSound) : s.releaseTest.RaceSound := by
  unfold State.releaseTest
  split
  · exact s.returnToIdle_raceSound _
  · exact h

/-- A running car stops (R36). -/
def Standing.stop (x : Standing) : Standing := if x.running then .stopped else x

theorem Car.stop_standing (c : Car) : c.stop.standing = c.standing.stop := by
  unfold Car.stop Standing.stop
  split <;> rfl

theorem State.stopRace_standingOf (s : State) (reason : Reason) (q : Port) :
    (s.stopRace reason).standingOf q = (s.standingOf q).map Standing.stop := by
  simp only [State.standingOf, State.car, State.stopRace, Bank.get_map, Option.map_map]
  exact Option.map_congr fun c _ => c.stop_standing

/-- Once the running cars have stopped, what occurs in FINISHING occurs in RESULTS (Table 2.4). -/
theorem Phase.results_allows_stop {y : Standing} (allowed : Phase.finishing.allows y = true) :
    Phase.results.allows y.stop = true := by
  cases y with
  | racing | coasting | finished _ | retired _ _ => rfl
  | entered | ready | stopped => exact absurd allowed Bool.false_ne_true

theorem State.RaceSound.enterResults {s : State} (h : s.RaceSound) (running : s.race.phase.running = true)
    (reason : Reason) : (s.enterResults reason).RaceSound := by
  have legal := h.legal
  have stands : ∀ q : Port, ((s.stopRace reason).openResults reason).standingOf q =
      (s.standingOf q).map Standing.stop := s.stopRace_standingOf reason
  refine State.RaceSound.releaseTest ((State.notifyPhase_only _ _).sameStandings.sound
    (State.Legal.raceSound_of_car ⟨legal.record.enterResults running reason _ _,
      ⟨?_, ?_, ?_, ?_, ?_, ?_⟩, ⟨?_, ?_, ?_⟩⟩ ?_ ?_))
  · exact fun _ => legal.stores.courseLocked (Phase.locked_of_running running)
  · exact fun idle => absurd idle (by simp [State.openResults, State.stopRace])
  · exact fun idle => absurd idle (by simp [State.openResults, State.stopRace])
  · exact fun before => absurd before (by simp [State.openResults, State.stopRace, Phase.afterGreen])
  · simp [State.openResults, State.stopRace]
  · exact fun before => absurd before (by simp [State.openResults, State.stopRace, Phase.afterGreen])
  · intro q x stopped
    rw [stands] at stopped
    obtain ⟨y, ran, rfl⟩ := Option.map_eq_some_iff.mp stopped
    exact Phase.results_allows_stop (Phase.allows_finishing running (legal.cars.standings q y ran))
  · intro q voted
    simp [State.openResults, State.stopRace] at voted
  · intro q set
    simp only [State.openResults, Bank.get_mapPorts, Bool.and_eq_true] at set
    exact set.1
  · simp [State.openResults, State.stopRace]
  · obtain ⟨p, here⟩ := h.taken.someCar (Phase.ne_idle_of_running running)
    exact ⟨p, (State.stopRace_isRacePort s reason p).trans here⟩

theorem State.RaceSound.closingWindowExpiry {s : State} (h : s.RaceSound) :
    s.closingWindowExpiry.RaceSound := by
  unfold State.closingWindowExpiry
  split
  · next due => exact h.enterResults (by rw [due.1]; rfl) _
  · exact h

theorem State.RaceSound.resultsHoldExpiry {s : State} (h : s.RaceSound) : s.resultsHoldExpiry.RaceSound := by
  unfold State.resultsHoldExpiry
  split
  · exact s.returnToIdle_raceSound _
  · exact h

/-- A race port joins the release set in RESULTS (R37). -/
theorem State.RaceSound.release {s : State} {p : Port} (h : s.RaceSound) (results : s.race.phase = .results)
    (here : s.isRacePort p = true) : (s.release p).RaceSound := by
  have legal := h.legal
  refine State.RaceSound.releaseTest (State.Legal.raceSound
    ⟨legal.record.setReleased results _, legal.stores.of_same (State.modifyRace_sameStores rfl),
      legal.cars.standings, legal.cars.votes, fun q set => ?_⟩
    (h.taken.modifyRace (by rw [results]; decide) (.inl rfl)))
  by_cases e : q = p
  · rw [e]; exact here
  · simp only [State.modifyRace, Bank.get_set_ne _ _ e] at set
    exact legal.cars.released q set

/-! ### The end tests (R32, R34, R126) -/

/-- The end tests leave a sound race where the race is sound as FINISHING, and is sound as it stands wherever
they leave it so. -/
theorem State.endTests_raceSound {s : State} {afterFinish : Bool} (closing : s.asFinishing.RaceSound)
    (stays : afterFinish = false ∨ s.race.phase ≠ .green → s.RaceSound) :
    (s.endTests afterFinish).RaceSound := by
  have results : ∀ reason : Reason, (s.enterResults reason).RaceSound := closing.enterResults rfl
  unfold State.endTests
  split
  · exact results _
  split
  · exact results _
  split
  · split
    · exact results _
    · exact (State.notifyPhase_only _ _).sameStandings.sound closing
  · next goesOn =>
    refine stays ?_
    rwa [Bool.and_eq_true, decide_eq_true_iff, Classical.not_and_iff_not_or_not, Bool.not_eq_true] at goesOn

end Sys2Proof.Machine
end

section
/-! PROOF. A sound race under votes, retirements and the effects of presence (06, 03, 07). -/
namespace Sys2Proof.Machine

/-! ### Votes (R121 to R125) -/

/-- In GREEN and FINISHING every car counts but a RETIRED one (R126). -/
theorem Phase.eligible_of_allows {x : Phase} {y : Standing} (running : x.running = true)
    (allowed : x.allows y = true) (stays : y.isRetired = false) : y.eligible = true := by
  have allowed := Phase.allows_finishing running allowed
  cases y with
  | racing | coasting | finished _ => rfl
  | retired _ _ => exact absurd stays (by simp [Standing.isRetired])
  | entered | ready | stopped => exact absurd allowed Bool.false_ne_true

/-- Votes that change while the race runs, so that each is held by a port whose car counts. -/
theorem State.RaceSound.setVotes {s : State} (h : s.RaceSound) (running : s.race.phase.running = true)
    {votes : Bank (Option Nat)} (counts : ∀ q : Port, (votes.get q).isSome = true →
      ∃ x : Standing, s.standingOf q = some x ∧ x.eligible = true) :
    (s.modifyRace fun r => { r with votes := votes }).RaceSound :=
  State.Legal.raceSound ⟨h.legal.record.setVotes running _,
    h.legal.stores.of_same (State.modifyRace_sameStores rfl),
    ⟨h.legal.cars.standings, counts, h.legal.cars.released⟩⟩
    (h.taken.modifyRace (Phase.ne_idle_of_running running) (.inl rfl))

theorem State.RaceSound.dropVote {s : State} (h : s.RaceSound) (running : s.race.phase.running = true)
    (p : Port) : (s.dropVote p).RaceSound := by
  refine h.setVotes running fun q voted => ?_
  rw [Bank.get_set] at voted
  split at voted
  · exact absurd voted (by simp)
  · exact h.legal.cars.votes q voted

theorem State.RaceSound.castVote {s : State} {p : Port} {x : Standing} (h : s.RaceSound)
    (running : s.race.phase.running = true) (stands : s.standingOf p = some x) (counts : x.eligible = true) :
    (s.castVote p).RaceSound := by
  have cast : (s.modifyRace fun r => { r with votes := r.votes.set p (some s.raceClock) }).RaceSound := by
    refine h.setVotes running fun q voted => ?_
    rw [Bank.get_set] at voted
    split at voted
    · next own => exact ⟨x, own ▸ stands, counts⟩
    · exact h.legal.cars.votes q voted
  unfold State.castVote
  dsimp only
  split
  · exact cast
  · exact (State.notifyVotes_only _).sameStandings.sound cast

theorem State.castVote_phase (s : State) (p : Port) : (s.castVote p).race.phase = s.race.phase := by
  unfold State.castVote
  dsimp only
  split
  · rfl
  · rw [(State.notifyVotes_only _).race]; rfl

theorem State.voteDue_running {s : State} {p : Port} (due : s.voteDue p = true) :
    s.race.phase.running = true :=
  (Bool.and_eq_true_iff.mp due).1

theorem State.RaceSound.voteExpiry {s : State} (h : s.RaceSound) (p : Port) : (s.voteExpiry p).RaceSound := by
  unfold State.voteExpiry
  split
  · next due =>
    exact (State.notifyVotes_only _).sameStandings.sound (h.dropVote (State.voteDue_running due) p)
  · exact h

/-! ### Retirement (R54) -/

/-- A retirement drops the vote of its port and has its car RETIRED. -/
theorem State.Retired.restands {s t : State} {p : Port} {reason : Reason} (h : s.Retired p reason t)
    (after : s.race.phase.afterGreen = true) :
    (s.dropVote p).Restands p (.retired reason s.raceClock) t where
  stores := by
    rw [h.rest]
    exact ⟨rfl, rfl, id, fun before => absurd (after.symm.trans before) (by decide), rfl, rfl⟩
  race := by rw [h.rest]; rfl
  own := by
    rw [State.standingOf, h.car, State.standingOf, Option.map_map, Option.map_map]
    rfl
  others := fun q other => by rw [State.standingOf, h.others q other]; rfl

theorem State.RaceSound.retire {s : State} (h : s.RaceSound) (running : s.race.phase.running = true)
    (p : Port) (reason : Reason) : (s.retire p reason).RaceSound := by
  obtain ⟨t, retired, ends⟩ := State.retire_retired p reason s
  have sound : t.RaceSound := by
    refine (retired.restands (Phase.afterGreen_of_running running)).sound (h.dropVote running p) ?_ ?_
    · show s.race.phase.allows _ = true
      cases phase : s.race.phase <;> simp_all [Phase.running, Phase.allows]
    · simp [State.dropVote]
  have phase : t.race.phase = s.race.phase := by rw [retired.rest]
  rw [ends]
  exact State.endTests_raceSound (sound.asFinishing (by rw [phase]; exact running)) fun _ => sound

/-! ### Presence (R131 to R139) -/

/-- In GREEN and FINISHING a car may coast, and race again. -/
theorem Phase.allows_running {x : Phase} {y : Standing} (running : x.running = true)
    (runs : y.running = true) : x.allows y = true := by
  cases y with
  | racing | coasting => cases x with
    | green | finishing => rfl
    | idle | forming | grid | countdown | results => exact absurd running Bool.false_ne_true
  | entered | ready | finished _ | stopped | retired _ _ => exact absurd runs Bool.false_ne_true

/-- A running car counts for the abort vote (R126). -/
theorem Standing.eligible_of_running {y : Standing} (runs : y.running = true) : y.eligible = true := by
  cases y with
  | racing | coasting => rfl
  | entered | ready | finished _ | stopped | retired _ _ => exact absurd runs Bool.false_ne_true

/-- A car that coasts, or races again, with its CAR_STATE notice. -/
theorem State.RaceSound.changeRunning {s : State} {x : Standing} (h : s.RaceSound)
    (running : s.race.phase.running = true) (runs : x.running = true) (p : Port) (n : Notice) :
    ((s.modifyCar p fun c => { c with standing := x }).notifyRace n).RaceSound :=
  ((s.modifyCar_restands p x).told (State.notifyRace_only _ _)).sound h (Phase.allows_running running runs)
    fun _ => Standing.eligible_of_running runs

theorem State.RaceSound.lateEffects {s : State} (h : s.RaceSound) (p : Port) (reason : Reason) :
    (s.lateEffects p reason).RaceSound := by
  unfold State.lateEffects
  split_ifs with running racing
  · exact h.changeRunning running rfl p _
  · exact h
  · exact h.holdTest
  · exact h

theorem State.RaceSound.returnEffects {s : State} (h : s.RaceSound) (p : Port) :
    (s.returnEffects p).RaceSound := by
  unfold State.returnEffects
  split_ifs with running coasting
  · exact h.changeRunning running rfl p _
  · exact h
  · exact h.holdTest
  · exact h

theorem State.RaceSound.lostEffects {s : State} (h : s.RaceSound) (p : Port) :
    (s.lostEffects p).RaceSound := by
  unfold State.lostEffects
  cases phase : s.race.phase with
  | idle => exact h
  | forming | grid | countdown =>
    dsimp only
    split
    · exact h.withdrawAndTest (by rw [phase]; rfl) (by rw [phase]; decide) p _
    · exact h
  | green | finishing =>
    dsimp only
    split
    · exact h.retire (by rw [phase]; rfl) p _
    · exact h
  | results =>
    dsimp only
    split
    · next here => exact h.release phase here
    · exact h

theorem State.RaceSound.silenceSecondStageExpiry {s : State} (h : s.RaceSound) (p : Port) :
    (s.silenceSecondStageExpiry p).RaceSound := by
  unfold State.silenceSecondStageExpiry
  split
  · exact ((s.modifyPort_sameRace p _).sameStandings.sound h).lostEffects p
  · exact h

end Sys2Proof.Machine
end

section
/-! PROOF. What the events of a link and the answers of a port keep, for any property of the race state that
the effects of presence keep (07, 10). -/
namespace Sys2Proof.Machine

/-- A property of the race state alone, which the effects of a port going LATE and returning keep. -/
structure State.KeptByPorts (Q : State → Prop) : Prop where
  same : ∀ {s t : State}, s.SameRace t → Q s → Q t
  late : ∀ {s : State} (p : Port) (reason : Reason), Q s → Q (s.lateEffects p reason)
  returned : ∀ {s : State} (p : Port), Q s → Q (s.returnEffects p)

section
variable {Q : State → Prop} {s : State}

/-! ### Presence, major errors and the loss of a link (R131 to R143, R171, R179) -/

theorem State.KeptByPorts.modifyPort (k : State.KeptByPorts Q) (h : Q s) (p : Port)
    (f : PortState → PortState) : Q (s.modifyPort p f) :=
  k.same (s.modifyPort_sameRace p f) h

theorem State.KeptByPorts.goLate (k : State.KeptByPorts Q) (h : Q s) (p : Port) (reason : Reason) :
    Q (s.goLate p reason) :=
  k.late p reason (k.modifyPort h p _)

theorem State.KeptByPorts.becomePresent (k : State.KeptByPorts Q) (h : Q s) (p : Port) :
    Q (s.becomePresent p) := by
  have heard := k.modifyPort h p fun c => { c with presence := .present, silence := .first firstStageLength }
  unfold State.becomePresent
  dsimp only
  split
  · exact k.returned p heard
  · exact heard

theorem State.KeptByPorts.fence (k : State.KeptByPorts Q) (h : Q s) (p : Port) : Q (s.fence p) := by
  have fenced := k.modifyPort h p fun c => { c with fenced := true }
  unfold State.fence
  dsimp only
  cases (s.port p).presence with
  | present | lost => exact k.goLate fenced p _
  | late | absent => exact fenced

theorem State.KeptByPorts.majorError (k : State.KeptByPorts Q) (h : Q s) (p : Port) (kind : ErrorKind)
    (requestKind : Option Byte) : Q (s.majorError p kind requestKind) := by
  unfold State.majorError
  split
  · exact k.same (State.notifyOwn_only _ _ _).sameRace (k.modifyPort h p _)
  · split_ifs
    · exact h
    · exact k.fence h p
    · exact k.modifyPort h p _

theorem State.KeptByPorts.reportReserved (k : State.KeptByPorts Q) (h : Q s) (p : Port) (r : Request) :
    Q (s.reportReserved p r) := by
  unfold State.reportReserved
  split
  · exact k.majorError h p _ _
  · exact h

theorem State.KeptByPorts.linkDown (k : State.KeptByPorts Q) (h : Q s) (p : Port) : Q (s.linkDown p) := by
  have dropped := k.modifyPort h p PortState.dropLink
  unfold State.linkDown
  dsimp only
  split
  · exact k.goLate dropped p _
  · exact dropped

theorem State.KeptByPorts.badLengthFrame (k : State.KeptByPorts Q) (h : Q s) (p : Port) :
    Q (s.badLengthFrame p) := by
  unfold State.badLengthFrame
  split
  · exact k.majorError h p _ _
  · exact h

theorem State.KeptByPorts.badCheckFrame (k : State.KeptByPorts Q) (h : Q s) (p : Port) :
    Q (s.badCheckFrame p) := by
  have counted := k.modifyPort h p fun c => { c with badChecks := c.badChecks + 1 }
  have reported := k.majorError counted p .badCheck none
  unfold State.badCheckFrame
  split
  · exact h
  · dsimp only
    split
    · exact k.linkDown reported p
    · exact reported

theorem State.KeptByPorts.lossOfSignal (k : State.KeptByPorts Q) (h : Q s) (p : Port) :
    Q (s.lossOfSignal p) := by
  unfold State.lossOfSignal
  split
  · exact k.linkDown h p
  · exact k.modifyPort h p _

theorem State.KeptByPorts.silenceFirstStageExpiry (k : State.KeptByPorts Q) (h : Q s) (p : Port) :
    Q (s.silenceFirstStageExpiry p) := by
  unfold State.silenceFirstStageExpiry
  split
  · exact k.goLate h p _
  · exact h

theorem State.KeptByPorts.pushTimerExpiry (k : State.KeptByPorts Q) (h : Q s) (p : Port) :
    Q (s.pushTimerExpiry p) := by
  unfold State.pushTimerExpiry
  split
  · exact k.modifyPort h p _
  · exact h

/-! ### Grants, and what a port answers itself (R61, R63, R176) -/

/-- A grant keeps what its performance keeps. -/
theorem State.KeptByPorts.grant (k : State.KeptByPorts Q) {p : Port} {kind : RequestKind}
    {perform : Request → State → State × Response} (h : Q s)
    (keeps : ∀ r u, Q u → Q (perform r u).1) : Q (s.grant p kind perform) := by
  cases waits : s.granted p kind with
  | none => rw [State.grant_none waits]; exact h
  | some r =>
    rw [State.grant_some waits]
    refine k.same (State.setPointer_sameRace _ p) ?_
    exact k.modifyPort (keeps r _ (k.modifyPort h p PortState.dropRequest)) p _

/-- An answer at the head of a queue keeps what its performance keeps. -/
theorem State.KeptByPorts.answer (k : State.KeptByPorts Q) {p : Port} {kind : RequestKind}
    {perform : Request → State → State × Response} (h : Q s)
    (keeps : ∀ r u, Q u → Q (perform r u).1) : Q (s.answer p kind perform) := by
  cases waits : s.localRequest p kind with
  | none => rw [State.answer_none waits]; exact h
  | some r =>
    rw [State.answer_some waits]
    exact k.modifyPort (keeps r _ (k.modifyPort h p PortState.dropRequest)) p _

theorem State.KeptByPorts.answerIdentify (k : State.KeptByPorts Q) (h : Q s) (p : Port) :
    Q (s.answerIdentify p) :=
  k.answer h fun r u sound => by rw [performIdentify_state]; exact sound

theorem State.KeptByPorts.answerNop (k : State.KeptByPorts Q) (h : Q s) (p : Port) : Q (s.answerNop p) :=
  k.answer h fun r u sound => by rw [performNop_state]; exact sound

theorem State.KeptByPorts.performSetPush (k : State.KeptByPorts Q) (h : Q s) (p : Port) (r : Request) :
    Q (performSetPush p r s).1 := by
  unfold Machine.performSetPush
  dsimp only
  split
  · exact h
  split
  · exact h
  · dsimp only
    exact k.modifyPort h p _

theorem State.KeptByPorts.answerSetPush (k : State.KeptByPorts Q) (h : Q s) (p : Port) :
    Q (s.answerSetPush p) := by
  unfold State.answerSetPush
  split
  · exact h
  · exact k.reportReserved (k.answer h fun r u sound => k.performSetPush sound p r) p _

theorem State.KeptByPorts.clearErrors (k : State.KeptByPorts Q) (h : Q s) (p : Port) :
    Q (s.clearErrors p) := by
  unfold State.clearErrors
  dsimp only
  split
  · exact h
  · exact k.becomePresent (k.modifyPort h p _) p

theorem State.KeptByPorts.answerClearErrors (k : State.KeptByPorts Q) (h : Q s) (p : Port) :
    Q (s.answerClearErrors p) :=
  k.answer h fun _ _ sound => k.clearErrors sound p

theorem State.KeptByPorts.answerUnknown (k : State.KeptByPorts Q) (h : Q s) (p : Port) :
    Q (s.answerUnknown p) := by
  unfold State.answerUnknown
  split
  · exact k.modifyPort h p _
  · exact h
  · exact h

theorem State.KeptByPorts.answerHead (k : State.KeptByPorts Q) (h : Q s) (p : Port) : Q (s.answerHead p) := by
  unfold State.answerHead
  split
  · exact h
  · exact k.answerUnknown h p
  · split
    · exact k.answerIdentify h p
    · exact k.answerNop h p
    · exact k.answerSetPush h p
    · exact k.answerClearErrors h p
    all_goals exact h

/-! ### Frames (R174) -/

theorem State.KeptByPorts.frameArrives (k : State.KeptByPorts Q) (h : Q s) (p : Port) :
    Q (s.frameArrives p) := by
  have up := k.modifyPort h p fun c => { c with link := .up, badChecks := 0 }
  unfold State.frameArrives State.validFramePresence
  split
  · exact up
  · exact k.becomePresent up p

theorem State.KeptByPorts.sortFrame (k : State.KeptByPorts Q) (h : Q s) (p : Port) (kind : Byte)
    (payload : List Byte) : Q (s.sortFrame p kind payload) := by
  unfold State.sortFrame
  split
  · split
    · exact k.modifyPort h p _
    · exact k.majorError h p _ _
  · exact k.majorError (k.modifyPort h p _) p _ _

theorem State.KeptByPorts.validFrame (k : State.KeptByPorts Q) (h : Q s) (p : Port) (kind : Byte)
    (payload : List Byte) : Q (s.validFrame p kind payload) := by
  have sorted := k.sortFrame (k.frameArrives h p) p kind payload
  unfold State.validFrame
  dsimp only
  split
  · exact k.answerHead sorted p
  · exact sorted

end

/-- The race is sound whatever happens on the links. -/
theorem State.raceSound_keptByPorts : State.KeptByPorts State.RaceSound where
  same := fun same h => same.sameStandings.sound h
  late := fun p reason h => h.lateEffects p reason
  returned := fun p h => h.returnEffects p

end Sys2Proof.Machine
end

section
/-! PROOF. A sound race under the requests that prepare a race and start it, LEAVE and the votes (01, 02, 03,
06). -/
namespace Sys2Proof.Machine

/-! ### Entries (R21, R47) -/

theorem State.appendEntry_standingOf (s : State) (p q : Port) :
    (s.appendEntry p).standingOf q = if q = p then some .entered else s.standingOf q := by
  simp only [State.standingOf, State.car, State.appendEntry, Bank.get_set]
  split <;> rfl

theorem State.appendEntry_isRacePort (s : State) (p q : Port) :
    (s.appendEntry p).isRacePort q = (decide (q = p) || s.isRacePort q) := by
  rw [State.isRacePort_eq, State.appendEntry_standingOf, State.isRacePort_eq]
  by_cases e : q = p <;> simp [e]

/-- In FORMING a car that enters leaves a legal race. -/
theorem State.Legal.appendEntry {s : State} (h : s.Legal) (forming : s.race.phase = .forming) (p : Port) :
    (s.appendEntry p).Legal where
  record := h.record
  stores := { h.stores with entryIdle := fun idle => absurd (forming.symm.trans idle) (by decide) }
  cars := {
    standings := fun q x stands => by
      rw [State.appendEntry_standingOf] at stands
      split at stands
      · obtain rfl := Option.some.inj stands
        rw [State.appendEntry_race, forming]
        rfl
      · exact h.cars.standings q x stands
    votes := fun q voted => by
      have running := h.record.votes q voted
      rw [forming] at running
      exact absurd running (by decide)
    released := fun q set => absurd (forming.symm.trans (h.record.released q set)) (by decide) }

theorem State.RaceSound.enterCar {s : State} (h : s.RaceSound) (forming : s.race.phase = .forming)
    (p : Port) :
    (s.enterCar p).RaceSound := by
  refine (State.notifyRace_only _ _).sameStandings.sound ((h.legal.appendEntry forming p).raceSound
    ⟨fun q own => ?_, fun _ => ⟨p, ?_⟩⟩)
  · rw [State.appendEntry_isRacePort, h.taken.opener q own, Bool.or_true]
  · rw [State.appendEntry_isRacePort, decide_eq_true rfl, Bool.true_or]

/-- In IDLE no slot is taken (Table 2.4). -/
theorem State.Legal.standingOf_idle {s : State} (h : s.Legal) (idle : s.race.phase = .idle) (q : Port) :
    s.standingOf q = none := by
  refine Option.eq_none_iff_forall_ne_some.mpr fun x stands => ?_
  have allowed := h.cars.standings q x stands
  rw [idle] at allowed
  exact absurd allowed Bool.false_ne_true

/-- An OPEN_RACE before its car has entered: the race record of FORMING, and the push timers started (R21,
R156). -/
def State.opened (p : Port) (s : State) : State :=
  { s with
    race := { s.race with number := nextRaceNumber s.race.number, phase := .forming, opener := some p
                          settings := .default, entryWindow := some 0 }
    ports := s.ports.map PortState.startPush }

/-- The opener's car enters the race opened, and the notices tell of both (R21). -/
theorem State.openRace_eq (p : Port) (s : State) : s.openRace p =
    (((s.opened p).appendEntry p).notifyPhase (.changed .forming .none)).notifyRace
      (.entry p .entered .none (((s.opened p).appendEntry p).entryPosition p)) := rfl

theorem State.RaceSound.opened {s : State} (h : s.RaceSound) (idle : s.race.phase = .idle) (p : Port) :
    (s.opened p).Legal := by
  have legal := h.legal
  have before : s.race.phase.afterGreen = false := by rw [idle]; rfl
  refine ⟨legal.record.openRace idle p _ _, ⟨?_, ?_, ?_, fun _ => legal.stores.groupsBefore before, ?_,
    fun _ => legal.stores.clock before⟩, ⟨fun q x stands => ?_, fun q voted => ?_, fun q set => ?_⟩⟩
  · exact fun locked => absurd locked (by simp [State.opened, Phase.locked])
  · exact fun back => absurd back (by simp [State.opened])
  · exact fun back => absurd back (by simp [State.opened])
  · simpa [State.opened, idle] using legal.stores.table
  · exact absurd ((legal.standingOf_idle idle q).symm.trans stands) (by simp)
  · have running := legal.record.votes q voted
    rw [idle] at running
    exact absurd running (by decide)
  · exact absurd (idle.symm.trans (legal.record.released q set)) (by decide)

theorem State.RaceSound.openRace {s : State} (h : s.RaceSound) (idle : s.race.phase = .idle) (p : Port) :
    (s.openRace p).RaceSound := by
  have here : ((s.opened p).appendEntry p).isRacePort p = true := by
    rw [State.appendEntry_isRacePort, decide_eq_true rfl, Bool.true_or]
  rw [State.openRace_eq]
  refine (State.notifyRace_only _ _).sameStandings.sound ((State.notifyPhase_only _ _).sameStandings.sound
    (((h.opened idle p).appendEntry rfl p).raceSound ⟨fun q own => ?_, fun _ => ⟨p, here⟩⟩))
  obtain rfl := Option.some.inj own
  exact here

/-! ### The requests of FORMING (R19 to R25, R46 to R49) -/

theorem performOpenRace_raceSound (p : Port) (r : Request) {s : State} (h : s.RaceSound) :
    (performOpenRace p r s).1.RaceSound := by
  unfold performOpenRace
  split_ifs with fenced running
  · exact h
  · exact h
  · exact h.openRace (not_not.mp running) p

theorem performSetRules_raceSound (p : Port) (r : Request) {s : State} (h : s.RaceSound) :
    (performSetRules p r s).1.RaceSound := by
  unfold performSetRules
  split
  · exact h
  · next accepted =>
    unfold State.rulesRefusal at accepted
    split_ifs at accepted with fenced idle locked opener range
    have record : ({ s.race with settings := s.race.settings.apply r.payload } : RaceRecord).Sound :=
      { h.legal.record with }
    dsimp only
    exact State.Legal.raceSound ⟨record, h.legal.stores.of_same (State.modifyRace_sameStores rfl),
      h.legal.cars.modifyRace h.legal.cars.standings rfl rfl⟩ (h.taken.modifyRace idle (.inl rfl))

/-- While the opener's car stays in the race, several other cars may leave it (R6, R22). -/
theorem State.RaceSound.withdraw_others {s : State} (h : s.RaceSound) (forming : s.race.phase = .forming)
    (reason : Reason) {l : List Port} (others : ∀ q ∈ l, s.race.opener ≠ some q) :
    (s.withdrawEach l reason).RaceSound := by
  induction l generalizing s with
  | nil => exact h
  | cons p rest ih =>
    obtain ⟨first, later⟩ := List.forall_mem_cons.mp others
    have race := s.withdraw_race p reason
    exact ih (h.withdraw_other forming first reason) (by rw [race, forming]) (by rw [race]; exact later)

theorem State.RaceSound.loadCourse {s : State} {p : Port} (h : s.RaceSound)
    (forming : s.race.phase = .forming) (opener : s.race.opener = some p) (c : Course) :
    (s.loadCourse p c).RaceSound := by
  have loaded : ({ s with course := some c } : State).RaceSound :=
    { h with
      courseLocked := fun _ => rfl
      courseIdle := fun idle => absurd (forming.symm.trans idle) (by decide) }
  unfold State.loadCourse
  dsimp only
  split
  · exact loaded
  · refine loaded.withdraw_others forming _ fun q entered own => ?_
    obtain rfl := Option.some.inj (opener.symm.trans own)
    exact (State.mem_otherEntered.mp entered).1 rfl

theorem performLoadCourse_raceSound (p : Port) (r : Request) {s : State} (h : s.RaceSound) :
    (performLoadCourse p r s).1.RaceSound := by
  unfold performLoadCourse
  split_ifs with fenced idle locked opener
  · exact h
  · exact h
  · exact h
  · exact h
  · split
    · exact h
    · exact h.loadCourse (Phase.forming_of_unlocked idle locked) (not_not.mp opener) _

theorem performEnter_raceSound (p : Port) (r : Request) {s : State} (h : s.RaceSound) :
    (performEnter p r s).1.RaceSound := by
  unfold performEnter
  split_ifs with fenced idle forming entered
  · exact h
  · exact h
  · exact h
  · exact h
  · split
    · exact h
    · split
      · exact h
      · exact h.enterCar (not_not.mp forming) p

theorem performCarSetup_raceSound (p : Port) (r : Request) {s : State} (h : s.RaceSound) :
    (performCarSetup p r s).1.RaceSound := by
  have changed : (s.modifyCar p (Car.setup r.payload)).RaceSound :=
    (State.modifyCar_sameStandings (f := Car.setup r.payload) fun _ _ => rfl).sound h
  unfold performCarSetup
  split
  · exact h
  split
  · exact h
  split
  · exact h
  · split_ifs
    · exact h
    · exact h
    · exact h
    · exact changed
    · exact (State.notifyRace_only _ _).sameStandings.sound changed

theorem performCloseEntries_raceSound (p : Port) (r : Request) {s : State} (h : s.RaceSound) :
    (performCloseEntries p r s).1.RaceSound := by
  unfold performCloseEntries
  split_ifs with fenced idle forming opener loaded
  · exact h
  · exact h
  · exact h
  · exact h
  · exact h
  · exact h.enterGrid (not_not.mp forming) (by simpa [Option.isSome_iff_ne_none] using loaded)

/-! ### READY and LEAVE (R50, R51) -/

/-- On the grid a car becomes READY, and the race starts its countdown once all are (R50, R27). -/
theorem State.RaceSound.declareReady {s : State} (h : s.RaceSound) (grid : s.race.phase = .grid) (p : Port) :
    (s.declareReady p).RaceSound := by
  have ready : ((s.modifyCar p fun c => { c with standing := .ready }).notifyRace
      (.carState p .ready .none)).RaceSound := by
    refine ((s.modifyCar_restands p .ready).told (State.notifyRace_only _ _)).sound h
      (by rw [grid]; rfl) fun voted => ?_
    have running := h.legal.record.votes p voted
    rw [grid] at running
    exact absurd running (by decide)
  unfold State.declareReady
  dsimp only
  split
  · next all => exact ready.legal.enterCountdown_of_allReady grid all
  · exact ready

theorem performReady_raceSound (p : Port) (r : Request) {s : State} (h : s.RaceSound) :
    (performReady p r s).1.RaceSound := by
  unfold performReady
  split
  · exact h
  split
  · exact h
  split
  · exact h
  · split_ifs with grid ready
    · exact h
    · exact h
    · exact h.declareReady (not_not.mp grid) p

theorem performLeave_raceSound (p : Port) (r : Request) {s : State} (h : s.RaceSound) :
    (performLeave p r s).1.RaceSound := by
  unfold performLeave
  split
  · exact h
  · cases phase : s.race.phase with
    | idle => exact h
    | forming | grid | countdown =>
      dsimp only
      split
      · exact h.withdrawAndTest (by rw [phase]; rfl) (by rw [phase]; decide) p _
      · exact h
    | green | finishing =>
      dsimp only
      split
      · exact h
      · split
        · exact h
        · exact h.retire (by rw [phase]; rfl) p _
    | results =>
      dsimp only
      split
      · next here => exact h.release phase here
      · exact h

/-! ### Votes (R122 to R124) -/

theorem performAbortVote_raceSound (p : Port) (r : Request) {s : State} (h : s.RaceSound) :
    (performAbortVote p r s).1.RaceSound := by
  unfold performAbortVote
  split
  · exact h
  split
  · exact h
  split
  · exact h
  next c car =>
  split_ifs with waits retired
  · exact h
  · exact h
  · have running : s.race.phase.running = true := by simpa using waits
    have stands := State.standingOf_of car
    have cast := h.castVote running stands (Phase.eligible_of_allows running
      (h.legal.cars.standings p _ stands) (by simpa using retired))
    dsimp only
    split
    · exact cast.enterResults (by rw [State.castVote_phase]; exact running) _
    · exact cast

theorem performWithdrawVote_raceSound (p : Port) (r : Request) {s : State} (h : s.RaceSound) :
    (performWithdrawVote p r s).1.RaceSound := by
  unfold performWithdrawVote State.removeVote
  split_ifs with fenced idle other waits voted
  · exact h
  · exact h
  · exact h
  · exact h
  · exact (State.notifyVotes_only _).sameStandings.sound (h.dropVote (by simpa using waits) p)
  · exact h

end Sys2Proof.Machine
end

section
/-! PROOF. A sound race under REPORT and CLEAR_FLAGS (04): a report changes no standing but that of its own
car, which may finish. -/
namespace Sys2Proof.Machine

/-! ### A car that may finish -/

/-- The race record and the other cars' standings are the same, and the car of port `p` has the standing it
had or has finished. -/
structure State.MayFinish (p : Port) (s t : State) : Prop where
  stores : s.SameStores t
  race : t.race = s.race
  own : t.standingOf p = s.standingOf p ∨
    s.isRacePort p = true ∧ ∃ time : Nat, t.standingOf p = some (.finished time)
  others : ∀ q : Port, q ≠ p → t.standingOf q = s.standingOf q

theorem State.SameStandings.mayFinish {s t : State} (h : s.SameStandings t) (p : Port) : s.MayFinish p t :=
  ⟨h.stores, h.race, .inl (h.standings p), fun q _ => h.standings q⟩

theorem State.MayFinish.trans {s t u : State} {p : Port} (h : s.MayFinish p t) (k : t.MayFinish p u) :
    s.MayFinish p u where
  stores := h.stores.trans k.stores
  race := k.race.trans h.race
  own := by
    rcases k.own with same | ⟨here, finished⟩
    · rw [same]
      exact h.own
    · refine .inr ⟨?_, finished⟩
      rcases h.own with same | ⟨there, -⟩
      · rw [State.isRacePort_eq, ← same, ← State.isRacePort_eq]
        exact here
      · exact there
  others := fun q other => (k.others q other).trans (h.others q other)

/-- The car of port `p` has finished, or every standing is the same. -/
theorem State.MayFinish.cases {s t : State} {p : Port} (h : s.MayFinish p t) :
    s.SameStandings t ∨
      ∃ time : Nat, t.standingOf p = some (.finished time) ∧ s.Restands p (.finished time) t := by
  rcases h.own with same | ⟨here, time, finished⟩
  · refine .inl ⟨h.stores, h.race, fun q => ?_⟩
    by_cases e : q = p
    · rw [e, same]
    · exact h.others q e
  · refine .inr ⟨time, finished, h.stores, h.race, ?_, h.others⟩
    rw [State.isRacePort_eq] at here
    obtain ⟨x, stands⟩ := Option.isSome_iff_exists.mp here
    rw [finished, stands]
    rfl

/-- In FINISHING a car may finish. -/
theorem State.MayFinish.sound {s t : State} {p : Port} (h : s.MayFinish p t) (sound : s.RaceSound)
    (finishing : s.race.phase = .finishing) : t.RaceSound := by
  rcases h.cases with same | ⟨time, -, finished⟩
  · exact same.sound sound
  · exact finished.sound sound (by rw [finishing]; rfl) fun _ => rfl

/-- What a report does to a race it does to the race as FINISHING. -/
theorem State.MayFinish.asFinishing {s t : State} {p : Port} (h : s.MayFinish p t) :
    s.asFinishing.MayFinish p t.asFinishing where
  stores := ⟨rfl, h.stores.course, h.stores.entryList, fun before => absurd before (by
    simp [State.asFinishing, Phase.afterGreen]), h.stores.table, h.stores.clock⟩
  race := by rw [State.asFinishing, State.modifyRace_race, h.race]; rfl
  own := h.own
  others := h.others

/-! ### The steps of the full application (R71 to R84) -/

/-- After the green the groups and the finish list may change (R93). -/
theorem State.sameStandings_of_groups {s t : State} (after : s.race.phase.afterGreen = true)
    (rest : t = { s with activeGroup := t.activeGroup }) : s.SameStandings t := by
  rw [rest]
  exact ⟨⟨rfl, rfl, id, fun before => absurd (after.symm.trans before) (by decide), rfl, rfl⟩, rfl,
    fun _ => rfl⟩

theorem State.storePose_sameStandings (s : State) (p : Port) (r : Request) :
    s.SameStandings (s.storePose p r) := by
  rw [State.storePose_spec]
  exact State.modifyCar_sameStandings fun _ _ => rfl

theorem State.travelBack_sameStandings (s : State) (p : Port) (course : Course) (delta : Int) :
    s.SameStandings (s.travelBack p course delta) := by
  unfold State.travelBack
  split
  · exact .refl s
  · next c car =>
    have moved : s.SameStandings (s.modifyCar p fun _ => c.reverse (course.position c.floorGate) delta) :=
      State.modifyCar_sameStandings fun d there => by
        obtain rfl := Option.some.inj (car.symm.trans there)
        rfl
    dsimp only
    split
    · exact (moved.trans (State.modifyCar_sameStandings (f := Car.markWrongWay) fun _ _ => rfl)).trans
        (State.notifyOwn_only _ _ _).sameStandings
    · exact moved

theorem State.travelForward_sameStandings (s : State) (p : Port) (course : Course) (delta : Int) :
    s.SameStandings (s.travelForward p course delta) := by
  cases car : s.car p with
  | none =>
    unfold State.travelForward
    rw [car]
    exact .refl s
  | some c =>
    exact (State.modifyCar_sameStandings (f := Car.forward (course.finish s.race.settings.laps) delta)
      fun _ _ => rfl).trans (State.travelForward_only (course := course) (delta := delta) car).sameStandings

/-- A car that finishes joins the finish list (R81). -/
theorem State.finishCar_mayFinish (s : State) (p : Port) (now : Nat)
    (after : s.race.phase.afterGreen = true) :
    s.MayFinish p (s.finishCar p now) := by
  have finished := s.modifyCar_restands p (.finished now)
  have stores : s.SameStores (s.finishCar p now) :=
    ⟨rfl, rfl, id, fun before => absurd (after.symm.trans before) (by decide), rfl, rfl⟩
  refine ⟨stores, rfl, ?_, finished.others⟩
  cases stands : s.standingOf p with
  | none =>
    refine .inl (finished.own.trans ?_)
    rw [stands]
    rfl
  | some x =>
    refine .inr ⟨State.isRacePort_of stands, now, finished.own.trans ?_⟩
    rw [stands]
    rfl

theorem State.crossGate_mayFinish (s : State) (p : Port) (now : Nat) (course : Course) (c : Car) (g : Gate)
    (after : s.race.phase.afterGreen = true) : s.MayFinish p (s.crossGate p now course c g) := by
  have floored : s.SameStandings (s.modifyCar p fun x =>
      { x with floorGate := g, nextGate := course.next s.race.settings.laps g }) :=
    State.modifyCar_sameStandings fun _ _ => rfl
  unfold State.crossGate
  dsimp only
  split
  · exact floored.mayFinish p
  · exact (floored.trans (State.notifyOwn_only _ _ _).sameStandings).mayFinish p
  · have lapped := (floored.trans (State.modifyCar_sameStandings (f := Car.completeLap now) (p := p)
      fun _ _ => rfl)).trans (State.notifyOwn_only p (.gate g now (some (now - c.lastLine))) _).sameStandings
    split
    · exact (lapped.mayFinish p).trans (State.finishCar_mayFinish _ p now (by rw [lapped.race]; exact after))
    · exact lapped.mayFinish p

theorem State.crossGates_mayFinish (p : Port) (now : Nat) (course : Course) (turns : Nat) (s : State)
    (after : s.race.phase.afterGreen = true) : s.MayFinish p (s.crossGates p now course turns) := by
  induction turns generalizing s with
  | zero => exact (State.SameStandings.refl s).mayFinish p
  | succ turns ih =>
    unfold State.crossGates
    split
    · exact (State.SameStandings.refl s).mayFinish p
    · next c _ =>
      split
      · exact (State.SameStandings.refl s).mayFinish p
      · next g _ =>
        split
        · have first := s.crossGate_mayFinish p now course c g after
          exact first.trans (ih _ (by rw [first.race]; exact after))
        · exact (State.SameStandings.refl s).mayFinish p

theorem State.applyDelta_mayFinish (s : State) (p : Port) (c : Car) (course : Course) (now : Nat)
    (carried : Int) (after : s.race.phase.afterGreen = true) :
    s.MayFinish p (s.applyDelta p c course now carried) := by
  unfold State.applyDelta
  dsimp only
  generalize decide (c.allowance now < carried.natAbs) = cut
  have rated : s.SameStandings (s.modifyCar p (Car.markRate cut)) :=
    State.modifyCar_sameStandings fun _ _ => rfl
  split_ifs
  · exact (rated.trans (State.travelBack_sameStandings _ p course _)).mayFinish p
  · have moved := rated.trans (State.travelForward_sameStandings _ p course
      (limitDelta (c.allowance now) carried))
    exact (moved.mayFinish p).trans
      (State.crossGates_mayFinish p now course _ _ (by rw [moved.race]; exact after))
  · exact (rated.trans (State.modifyCar_sameStandings (f := Car.stand) fun _ _ => rfl)).mayFinish p

theorem State.bookReport_sameStandings (s : State) (p : Port) (now before : Nat) (order : List Port)
    (after : s.race.phase.afterGreen = true) : s.SameStandings (s.bookReport p now before order) := by
  have booked : s.SameStandings (s.modifyCar p fun c =>
      { c with lastReport := now
               distanceChange := if c.distance = before then c.distanceChange else now }) :=
    State.modifyCar_sameStandings fun _ _ => rfl
  unfold State.bookReport
  dsimp only
  split
  · exact booked
  · split_ifs
    · exact (booked.trans (State.sameStandings_of_groups after rfl)).trans
        (State.notifyMove_only _ _).sameStandings
    · exact booked
    · exact (booked.trans (State.sameStandings_of_groups after rfl)).trans
        (State.notifyMove_only _ _).sameStandings

/-! ### REPORT and CLEAR_FLAGS -/

/-- The full application, with the end tests where the car finishes (R84). -/
theorem State.RaceSound.fullApplication {s : State} (h : s.RaceSound) (running : s.race.phase.running = true)
    (p : Port) (r : Request) : (s.fullApplication p r).RaceSound := by
  have after := Phase.afterGreen_of_running running
  unfold State.fullApplication
  split
  · next c course _ _ =>
    dsimp only
    have applied := s.applyDelta_mayFinish p c course s.raceClock (reportDelta r.payload) after
    have booked := State.bookReport_sameStandings
      (s.applyDelta p c course s.raceClock (reportDelta r.payload)) p s.raceClock c.distance s.runningOrder
      (by rw [applied.race]; exact after)
    have stored := applied.trans ((booked.trans (State.storePose_sameStandings _ p r)).mayFinish p)
    generalize (State.bookReport p s.raceClock c.distance s.runningOrder _).storePose p r = u at stored
    split
    · refine State.endTests_raceSound (stored.asFinishing.sound (h.asFinishing running) rfl) ?_
      rintro (never | closing)
      · exact absurd never (by decide)
      · refine stored.sound h ?_
        rw [stored.race] at closing
        cases phase : s.race.phase <;> simp_all [Phase.running]
    · next runs =>
      rcases stored.cases with same | ⟨time, finished, -⟩
      · exact same.sound h
      · obtain ⟨d, car, standing⟩ := State.standingOf_eq_some_iff.mp finished
        exact absurd (by rw [State.carState_of car, standing]; rfl) runs
  · exact h

theorem State.jumpStart_sameStandings (s : State) (p : Port) : s.SameStandings (s.jumpStart p) := by
  unfold State.jumpStart
  split
  · exact .refl s
  · next c _ =>
    have marked : s.SameStandings (s.modifyCar p fun x =>
        { x with sticky := { x.sticky with jumpStart := true }
                 penalty := jumpPenalty s.race.settings.jumpStartPenalty c.penalty }) :=
      State.modifyCar_sameStandings fun _ _ => rfl
    dsimp only
    split
    · exact marked
    · exact marked.trans (State.notifyOwn_only _ _ _).sameStandings

theorem State.countdownReport_sameStandings (s : State) (p : Port) (r : Request) :
    s.SameStandings (s.countdownReport p r) := by
  unfold State.countdownReport
  split
  · exact (s.jumpStart_sameStandings p).trans (State.storePose_sameStandings _ p r)
  · exact s.storePose_sameStandings p r

/-- What an accepted REPORT does keeps the race sound (Table 4.3). -/
theorem State.RaceSound.applyReport {s : State} (h : s.RaceSound) (p : Port) (r : Request) :
    (s.applyReport p r).RaceSound := by
  unfold State.applyReport
  split
  · exact (s.countdownReport_sameStandings p r).sound h
  · next green _ => exact h.fullApplication (by rw [green]; rfl) p r
  · next finishing _ => exact h.fullApplication (by rw [finishing]; rfl) p r
  · exact (s.storePose_sameStandings p r).sound h
  · exact (s.storePose_sameStandings p r).sound h
  · exact h

theorem performReport_raceSound (p : Port) (r : Request) {s : State} (h : s.RaceSound) :
    (performReport p r s).1.RaceSound := by
  unfold performReport
  split
  · exact h
  split
  · exact h
  split
  · exact h
  · split_ifs
    · exact h
    · exact h
    · exact h.applyReport p r

theorem performClearFlags_raceSound (p : Port) (r : Request) {s : State} (h : s.RaceSound) :
    (performClearFlags p r s).1.RaceSound := by
  unfold performClearFlags
  split
  · exact h
  split
  · exact h
  split
  · exact h
  · next c _ =>
    have cleared : (s.modifyCar p fun x =>
        { x with sticky := c.sticky.clearMasked (byteAt r.payload 0) }).RaceSound := by
      refine State.SameStandings.sound (State.modifyCar_sameStandings ?_) h
      exact fun _ _ => rfl
    split_ifs
    · exact h
    · exact cleared

end Sys2Proof.Machine
end

section
/-! PROOF. Every command keeps the race sound (R17, R22, R31, R37, R40, R105, R113, R121). -/
namespace Sys2Proof.Machine

/-! ### The tick (R17, R31, R35) -/

/-- What each port's expiry keeps, the expiries of all ports keep. -/
theorem State.RaceSound.foldl {expiry : State → Port → State} {s : State} (h : s.RaceSound)
    (keeps : ∀ u p, u.RaceSound → (expiry u p).RaceSound) (ports : List Port) :
    (ports.foldl expiry s).RaceSound :=
  List.foldlRecOn ports expiry h fun u sound p _ => keeps u p sound

theorem State.RaceSound.takeDue {s : State} (h : s.RaceSound) : s.takeDue.RaceSound := by
  have k := State.raceSound_keptByPorts
  have timers := h.entryWindowExpiry.gridWaitExpiry.countdownExpiry.closingWindowExpiry.resultsHoldExpiry
  have votes := timers.foldl (fun _ p sound => sound.voteExpiry p) allPorts
  have first := votes.foldl (fun _ p sound => k.silenceFirstStageExpiry sound p) allPorts
  have second := first.foldl (fun _ p sound => sound.silenceSecondStageExpiry p) allPorts
  exact second.foldl (fun _ p sound => k.pushTimerExpiry sound p) allPorts

/-- A tick counts the race clock after the green alone, and starts and stops no timer. -/
theorem State.RaceSound.countTick {s : State} (h : s.RaceSound) : s.countTick.RaceSound := by
  have legal := h.legal
  refine State.Legal.raceSound ⟨legal.record.tick, { legal.stores with clock := fun before => ?_ },
    ⟨legal.cars.standings, legal.cars.votes, legal.cars.released⟩⟩ ⟨h.taken.opener, h.taken.someCar⟩
  have still : s.race.phase.running ≠ true := fun running =>
    absurd ((Phase.afterGreen_of_running running).symm.trans before) (by decide)
  show (if s.race.phase.running then s.raceClock + 1 else s.raceClock) = 0
  rw [if_neg still]
  exact legal.stores.clock before

theorem State.RaceSound.limitTick {s : State} (h : s.RaceSound) (limit : s.atLimit = true) :
    s.limitTick.RaceSound :=
  h.countTick.enterResults (Bool.and_eq_true_iff.mp limit).1 _

theorem State.RaceSound.tick {s : State} (h : s.RaceSound) : s.tick.RaceSound := by
  unfold State.tick
  split
  · next limit => exact h.takeDue.limitTick limit
  · exact h.takeDue.countTick

/-! ### Every command -/

/-- The race is sound after a hardware reset (R182). -/
theorem State.reset_raceSound : State.reset.RaceSound := by
  have empty : ∀ p : Port, State.reset.standingOf p = none := fun p => by
    simp [State.standingOf, State.car, State.reset]
  refine State.Legal.raceSound ⟨RaceRecord.reset.cleared_sound, ⟨?_, fun _ => rfl, fun _ => rfl,
    fun _ => ⟨rfl, rfl, rfl⟩, by decide, fun _ => rfl⟩, ⟨fun p x stands => ?_, fun p voted => ?_,
      fun p set => ?_⟩⟩ ⟨fun p own => ?_, fun started => absurd rfl started⟩
  · exact fun locked => absurd locked (by decide)
  · exact absurd ((empty p).symm.trans stands) (by simp)
  · simp [State.reset, RaceRecord.reset] at voted
  · simp [State.reset, RaceRecord.reset] at set
  · simp [State.reset, RaceRecord.reset] at own

/-- Every command keeps the race sound. -/
theorem exec_raceSound (command : Instr) {s : State} (h : s.RaceSound) :
    ∃ t : State, exec command s = .next t ∧ t.RaceSound := by
  have k := State.raceSound_keptByPorts
  cases command with
  | openRace p => exact ⟨_, rfl, k.grant h fun r _ => performOpenRace_raceSound p r⟩
  | setRules p =>
    have done := k.grant (p := p) (kind := .setRules) h fun r _ => performSetRules_raceSound p r
    refine ⟨_, rfl, ?_⟩
    split
    · exact h
    · split
      · exact done.entryWindowExpiry
      · exact done
  | loadCourse p => exact ⟨_, rfl, k.grant h fun r _ => performLoadCourse_raceSound p r⟩
  | enter p => exact ⟨_, rfl, k.grant h fun r _ => performEnter_raceSound p r⟩
  | carSetup p =>
    refine ⟨_, rfl, ?_⟩
    split
    · exact h
    · exact k.reportReserved (k.grant h fun r _ => performCarSetup_raceSound p r) p _
  | closeEntries p => exact ⟨_, rfl, k.grant h fun r _ => performCloseEntries_raceSound p r⟩
  | ready p => exact ⟨_, rfl, k.grant h fun r _ => performReady_raceSound p r⟩
  | leave p => exact ⟨_, rfl, k.grant h fun r _ => performLeave_raceSound p r⟩
  | report p => exact ⟨_, rfl, k.grant h fun r _ => performReport_raceSound p r⟩
  | clearFlags p => exact ⟨_, rfl, k.grant h fun r _ => performClearFlags_raceSound p r⟩
  | snapshot p => exact ⟨_, rfl, k.grant h fun r u sound => by rw [performSnapshot_state]; exact sound⟩
  | readLaps p => exact ⟨_, rfl, k.grant h fun r u sound => by rw [performReadLaps_state]; exact sound⟩
  | readResults p =>
    exact ⟨_, rfl, k.grant h fun r u sound => by rw [performReadResults_state]; exact sound⟩
  | abortVote p => exact ⟨_, rfl, k.grant h fun r _ => performAbortVote_raceSound p r⟩
  | withdrawVote p => exact ⟨_, rfl, k.grant h fun r _ => performWithdrawVote_raceSound p r⟩
  | identify p => exact ⟨_, rfl, k.answerIdentify h p⟩
  | nop p => exact ⟨_, rfl, k.answerNop h p⟩
  | setPush p => exact ⟨_, rfl, k.answerSetPush h p⟩
  | clearErrors p => exact ⟨_, rfl, k.answerClearErrors h p⟩
  | unknownFrameAnswer p => exact ⟨_, rfl, k.answerUnknown h p⟩
  | validFrame p kind payload =>
    refine ⟨_, rfl, ?_⟩
    split
    · exact k.validFrame h p kind payload
    · exact k.badLengthFrame h p
  | badCheckFrame p => exact ⟨_, rfl, k.badCheckFrame h p⟩
  | badLengthFrame p => exact ⟨_, rfl, k.badLengthFrame h p⟩
  | resynchronisingCandidateDiscard p => exact ⟨_, rfl, h⟩
  | lossOfSignal p => exact ⟨_, rfl, k.lossOfSignal h p⟩
  | hardwareReset =>
    exact ⟨_, rfl, k.same (State.reset.setPending_sameRace s.pending) State.reset_raceSound⟩
  | entryWindowExpiry => exact ⟨_, rfl, h.entryWindowExpiry⟩
  | gridWaitExpiry => exact ⟨_, rfl, h.gridWaitExpiry⟩
  | countdownExpiry => exact ⟨_, rfl, h.countdownExpiry⟩
  | closingWindowExpiry => exact ⟨_, rfl, h.closingWindowExpiry⟩
  | raceLimit =>
    refine ⟨_, rfl, ?_⟩
    split
    · next limit => exact h.takeDue.limitTick limit
    · exact h
  | resultsHoldExpiry => exact ⟨_, rfl, h.resultsHoldExpiry⟩
  | voteExpiry p => exact ⟨_, rfl, h.voteExpiry p⟩
  | silenceFirstStageExpiry p => exact ⟨_, rfl, k.silenceFirstStageExpiry h p⟩
  | silenceSecondStageExpiry p => exact ⟨_, rfl, h.silenceSecondStageExpiry p⟩
  | pushTimerExpiry p => exact ⟨_, rfl, k.pushTimerExpiry h p⟩
  | transmitTake p => exact ⟨_, rfl, k.modifyPort h p _⟩
  | tick => exact ⟨_, rfl, h.tick⟩

/-- Settles O6: the command at the front of the queue keeps the race sound, and so does an idle step. -/
theorem stepKeepsRaceSound : Obligations.StepKeepsRaceSound := by
  intro s t h stepped
  unfold step at stepped
  split at stepped
  · obtain rfl := Host.Outcome.next.inj stepped
    exact h
  · next command rest _ =>
    obtain ⟨u, performed, sound⟩ := exec_raceSound command
      ((s.setPending_sameRace rest).sameStandings.sound h)
    obtain rfl := Host.Outcome.next.inj (performed.symm.trans stepped)
    exact sound

end Sys2Proof.Machine
end

section
/-! PROOF. What the expiries of the Race Control Unit and the tick do (R25, R28, R30, R33, R35, R38, R147). -/
namespace Sys2Proof.Machine

/-! ### The entry window (R25) -/

theorem State.entryWindowDue_iff (s : State) : s.entryWindowDue = true ↔
    s.race.phase = .forming ∧
      ∃ passed : Nat, s.race.entryWindow = some passed ∧ s.race.settings.entryWindow ≤ passed := by
  unfold State.entryWindowDue
  rw [Bool.and_eq_true, decide_eq_true_iff]
  cases s.race.entryWindow <;> simp

/-- A window that is due ends in GRID with a course, and dissolves the race without one (R25). -/
theorem State.entryWindowExpiry_due {s : State} (due : s.entryWindowDue = true) :
    s.entryWindowExpiry = if s.course.isSome then s.enterGrid else s.returnToIdle .noCourse := by
  unfold State.entryWindowExpiry
  rw [if_pos due]
  cases s.course <;> rfl

theorem State.entryWindowExpiry_waits {s : State} (waits : s.entryWindowDue = false) :
    s.entryWindowExpiry = s := by
  unfold State.entryWindowExpiry
  rw [waits]
  rfl

theorem PortState.offerIf_eq_offerAll (offered : Bool) (n : Notice) (c : PortState) :
    c.offerIf offered n = c.offerAll (noticeIf offered n) := by
  cases offered <;> rfl

/-- The entry into GRID changes the race record and tells the present ports of the phase (R24). -/
theorem State.enterGrid_told (s : State) :
    (s.modifyRace fun r => { r with
      phase := .grid, opener := none, entryWindow := none, gridWait := some r.settings.gridWait }).Told
      (fun q => noticeIf (s.isPresentPort q) (.phase (.changed .grid .none) s.race.number)) s.enterGrid := by
  exact State.notifyPhase_told (.changed .grid .none) (s.modifyRace fun r => { r with
    phase := .grid, opener := none, entryWindow := none, gridWait := some r.settings.gridWait })

/-- Settles O54: the window is due, and its expiry has the two cases of the course. -/
theorem entryWindowExpiry : Obligations.EntryWindowExpiry := by
  intro s passed forming window ran
  have due := s.entryWindowDue_iff.mpr ⟨forming, passed, window, ran⟩
  have expires : exec .entryWindowExpiry s =
      .next (if s.course.isSome then s.enterGrid else s.returnToIdle .noCourse) :=
    congrArg _ (State.entryWindowExpiry_due due)
  refine ⟨fun loaded => ⟨s.enterGrid, ?_, s.enterGrid_told.rest, fun q => ?_⟩, fun empty =>
    ⟨s.returnToIdle .noCourse, ?_, State.returnToIdle_spec _ s⟩⟩
  · rw [expires, if_pos (Option.isSome_iff_ne_none.mpr loaded)]
  · rw [PortState.offerIf_eq_offerAll]
    exact s.enterGrid_told.ports q
  · rw [expires, empty]
    rfl

/-! ### The grid wait (R28) -/

/-- The ENTERED cars in ascending slot order, as the grid wait withdraws them (R28). -/
theorem State.enteredPorts_sorted (s : State) : s.enteredPorts.Pairwise (· < ·) :=
  List.Pairwise.filter _ (by decide : allPorts.Pairwise (· < ·))

theorem State.withdrawEach_entered (reason : Reason) (s : State) :
    s.WithdrawnEach reason s.enteredPorts (s.withdrawEach s.enteredPorts reason) := by
  refine State.withdrawEach_spec reason _ s (s.enteredPorts_sorted.imp fun less => less.ne)
    fun q entered => ?_
  obtain ⟨x, stands, -⟩ := State.standingOf_of_carState (State.mem_enteredPorts.mp entered) (by decide)
  rw [← Option.isSome_iff_ne_none]
  exact State.isRacePort_of stands

/-- Where some READY car stands on the grid, the cars that are not ENTERED remain, and enter COUNTDOWN; where
none does, nothing remains (R28, R29). -/
theorem State.gridWaitExpiry_due {s : State} (grid : s.race.phase = .grid) (out : s.race.gridWait = some 0)
    (sound : s.RaceSound) :
    ((∃ q : Port, s.carState q = .ready) →
      s.gridWaitExpiry = (s.withdrawEach s.enteredPorts .readyMissed).enterCountdown) ∧
    ((∀ q : Port, s.carState q ≠ .ready) →
      s.gridWaitExpiry = (s.withdrawEach s.enteredPorts .readyMissed).returnToIdle .noStarters) := by
  unfold State.gridWaitExpiry
  rw [if_pos ⟨grid, out⟩]
  dsimp only
  constructor
  · rintro ⟨q, ready⟩
    obtain ⟨x, stands, -⟩ := State.standingOf_of_carState ready (by decide)
    have kept : q ∉ s.enteredPorts := by simp [State.mem_enteredPorts, ready]
    rw [if_neg]
    refine (State.carCount_pos_iff _).mpr ⟨q, State.isRacePort_of (x := x) ?_⟩ |>.ne'
    rw [State.withdrawEach_standingOf, if_neg kept, stands]
  · intro nobody
    rw [if_pos]
    refine (State.carCount_zero_iff _).mpr fun q => ?_
    rw [← Option.map_eq_none_iff (f := Car.standing)]
    refine (State.withdrawEach_standingOf _ _ _ _).trans ?_
    split
    · rfl
    · next kept =>
      refine Option.eq_none_iff_forall_ne_some.mpr fun x stands => nobody q ?_
      have ready := sound.legal.cars.ready_of_grid grid stands (mt State.mem_enteredPorts.mpr kept)
      obtain ⟨c, car, standing⟩ := State.standingOf_eq_some_iff.mp stands
      rw [State.carState_of car, standing, ready]
      rfl

/-- A car's state is that of its standing, and EMPTY without one. -/
theorem State.carState_eq (s : State) (q : Port) :
    s.carState q = (s.standingOf q).elim .empty Standing.state := by
  unfold State.carState State.standingOf
  cases s.car q <;> rfl

/-- The entry into COUNTDOWN, held where some READY car's port is LATE (R27, R116). -/
theorem State.enterCountdown_eq {s : State} {late : Prop} [Decidable late] (h : s.SomeReadyLate ↔ late) :
    s.enterCountdown = { s with
      race := { s.race with
        phase := .countdown, gridWait := none
        holdSlot := if late then some s.race.settings.countdownLength else none
        countdown := if late then none else some s.race.settings.countdownLength }
      ports := s.enterCountdown.ports } := by
  rw [← State.anyReadyLate_iff] at h
  simp only [← h]
  exact s.enterCountdown_only.rest

/-- The withdrawals of the cars that are not READY leave the READY cars and the presence of their ports. -/
theorem State.withdrawEach_someReadyLate (s : State) :
    (s.withdrawEach s.enteredPorts .readyMissed).SomeReadyLate ↔
      ∃ q : Port, s.carState q = .ready ∧ (s.port q).presence = .late := by
  refine exists_congr fun q => ?_
  have presence : ((s.withdrawEach s.enteredPorts .readyMissed).port q).presence = (s.port q).presence := by
    rw [State.withdrawEach_ports .readyMissed s.enteredPorts s q]
  have stands := State.withdrawEach_standingOf .readyMissed s.enteredPorts s q
  rw [presence]
  refine and_congr_left fun _ => ?_
  by_cases entered : q ∈ s.enteredPorts
  · rw [State.mem_enteredPorts.mp entered, State.carState_eq, stands, if_pos entered]
    decide
  · rw [State.carState_eq, stands, if_neg entered, ← State.carState_eq]

/-- Settles O55: the withdrawals are those of R52 one after another, and what remains is READY. -/
theorem gridWaitExpiry : Obligations.GridWaitExpiry := by
  intro s grid out sound
  have each := State.withdrawEach_entered .readyMissed s
  obtain ⟨starts, dissolves⟩ := State.gridWaitExpiry_due grid out sound
  refine ⟨s.enteredPorts, s.withdrawEach s.enteredPorts .readyMissed, s.gridWaitExpiry, rfl,
    fun q => State.mem_enteredPorts, s.enteredPorts_sorted, each, fun ready => ?_, fun nobody => ?_⟩
  · have late := s.withdrawEach_someReadyLate
    have told := State.withdrawEach_ports .readyMissed s.enteredPorts s
    rw [starts ready]
    generalize s.withdrawEach s.enteredPorts .readyMissed = u at each late told
    obtain ⟨rest, gone, kept⟩ := each.leaves
    have only := u.enterCountdown_only
    refine ⟨u.enterCountdown_spec, ?_, fun q waits => ?_, fun q missed => ?_, fun q => ?_⟩
    · have list : s.entryList.filter (fun q => q ∉ s.enteredPorts) =
          s.entryList.filter (fun q => s.carState q ≠ .entered) := by simp only [State.mem_enteredPorts]
      have cars : u.enterCountdown.cars = u.cars := by rw [only.rest]; rfl
      rw [list] at rest
      rw [cars]
      refine (State.enterCountdown_eq late).trans ?_
      generalize u.enterCountdown.ports = ports
      rw [rest]
    · rw [only.car]
      exact kept q (by simp [State.mem_enteredPorts, waits])
    · rw [only.car]
      by_cases entered : q ∈ s.enteredPorts
      · exact gone q entered
      · obtain ⟨position, here⟩ := kept q entered
        refine here.trans ?_
        cases car : s.car q with
        | none => rfl
        | some c =>
          have ready := sound.legal.cars.ready_of_grid grid (State.standingOf_of car)
            (mt State.mem_enteredPorts.mpr entered)
          exact absurd (by rw [State.carState_of car, ready]; rfl) missed
    · exact (told q).trans (only.ports q)
  · rw [dissolves nobody]
    have race : (s.withdrawEach s.enteredPorts .readyMissed).race = s.race := by rw [each.leaves.1]
    have back := State.returnToIdle_spec .noStarters (s.withdrawEach s.enteredPorts .readyMissed)
    exact ⟨back, by rw [back.race, race], back.course, back.lists.1, back.clock.1, back.cars⟩

/-! ### The countdown (R30) -/

/-- Settles O56: in COUNTDOWN every car is READY, so every car starts. -/
theorem countdownExpiryGoesGreen : Obligations.CountdownExpiryGoesGreen := by
  intro s course count out free loaded sound
  have expires : exec .countdownExpiry s = .next s.enterGreen := by
    show Host.Outcome.next s.countdownExpiry = _
    unfold State.countdownExpiry
    rw [if_pos ⟨count, out, free⟩]
  refine ⟨s.enterGreen, expires, rfl, fun q => ?_, fun q => ?_⟩
  · unfold State.enterGreen State.nextGate
    rw [State.notifyPhase_car, loaded]
    simp only [State.car, Bank.get_map]
    refine Option.map_congr fun c car => ?_
    rw [Car.start, if_pos (sound.ready_of_countdown count car)]
    rfl
  · rw [PortState.offerIf_eq_offerAll]
    exact (State.notifyPhase_told _ _).ports q

/-! ### The closing window and the results hold (R33, R38) -/

/-- Settles O57: the two expiries are the entry into RESULTS and the return to IDLE. -/
theorem closingWindowAndResultsHoldExpiries : Obligations.ClosingWindowAndResultsHoldExpiries := by
  constructor
  · rintro s finishing out ⟨q, here, kept⟩
    refine ⟨s.enterResults .closed, ?_, State.enterResults_spec .closed here kept⟩
    show Host.Outcome.next s.closingWindowExpiry = _
    unfold State.closingWindowExpiry
    rw [if_pos ⟨finishing, out⟩]
  · intro s results out
    refine ⟨s.returnToIdle .holdExpired, ?_, State.returnToIdle_spec .holdExpired s⟩
    show Host.Outcome.next s.resultsHoldExpiry = _
    unfold State.resultsHoldExpiry
    rw [if_pos ⟨results, out⟩]

/-! ### The tick (R17, R31, R35, R147) -/

@[simp] theorem State.countTick_port (s : State) (p : Port) : s.countTick.port p = (s.port p).tick := by
  simp [State.port, State.countTick]

theorem State.atLimit_iff (s : State) : s.atLimit = true ↔
    s.race.phase.running = true ∧ s.race.settings.raceLimit ≤ s.raceClock + 1 := by
  simp [State.atLimit]

/-- Settles O58: with nothing else due, the tick that reaches the limit is the entry into RESULTS. -/
theorem raceLimitEntersResults : Obligations.RaceLimitEntersResults := by
  rintro s quiet running limit ⟨q, here, kept⟩
  have reached : s.atLimit = true := s.atLimit_iff.mpr ⟨running, limit.ge⟩
  have entered : s.countTick.EnteredResults .limit s.limitTick :=
    State.enterResults_spec .limit (p := q) here (by rw [State.countTick_port]; exact kept)
  refine ⟨s.limitTick, ?_, ?_, entered, ?_⟩
  · show Host.Outcome.next _ = _
    rw [State.takeDue_nothing quiet, if_pos reached]
  · show Host.Outcome.next s.tick = _
    unfold State.tick
    rw [State.takeDue_nothing quiet, if_pos reached]
  · rw [entered.clock.1, ← limit]
    exact if_pos running

theorem Phase.running_iff (x : Phase) : x.running = true ↔ x = .green ∨ x = .finishing := by
  cases x <;> simp [Phase.running]

/-- Settles O60: with nothing due and the limit not reached, the tick is the count alone. -/
theorem tickCountsOneMillisecond : Obligations.TickCountsOneMillisecond := by
  intro s quiet below
  have counts : exec .tick s = .next s.countTick := by
    show Host.Outcome.next s.tick = _
    unfold State.tick
    rw [State.takeDue_nothing quiet, if_neg fun reached => below (s.atLimit_iff.mp reached)]
  refine ⟨s.countTick, counts, rfl, ?_, rfl, fun p => ?_, fun p => ?_⟩
  · simp only [← Phase.running_iff]
    rfl
  · rw [State.countTick_port]
    rfl
  · rw [State.countTick_port]
    show (s.port p).silence.tick = _
    cases (s.port p).silence <;> rfl

end Sys2Proof.Machine
end

section
/-! PROOF. OPEN_RACE, SET_RULES and CLOSE_ENTRIES, between the two ends of their grants (R20, R21, R24). -/
namespace Sys2Proof.Machine

/-! ### The ports between the two ends of a grant (R61) -/

/-- A port whose request is taken is the same but for its request queue. -/
theorem State.requestTaken_same (s : State) (p q : Port) : (s.requestTaken p).port q =
    { s.port q with requestQueue := ((s.requestTaken p).port q).requestQueue } := by
  unfold State.requestTaken
  rw [State.modifyPort_port]
  split
  · next own => rw [own]; rfl
  · rfl

/-- A port that the response is placed on is the same but for its response queue. -/
theorem State.responsePlaced_same (s : State) (p q : Port) (response : Response) :
    (s.responsePlaced p response).port q =
      { s.port q with responseQueue := ((s.responsePlaced p response).port q).responseQueue } := by
  have placed : (s.responsePlaced p response).port q =
      (s.modifyPort p fun c => c.respond response).port q := rfl
  rw [placed, State.modifyPort_port]
  split
  · next own => rw [own]; rfl
  · rfl

/-- The two ends of a grant leave the notices, so that a port has been offered in it what the performance
offered it. -/
theorem State.grant_sameNotices {s u : State} {p q : Port} {c : PortState} {notices : List Notice}
    (response : Response) (performed : u.port q = c.offerAll notices)
    (link : c.link = (s.port q).link) (same : (s.port q).SameNotices c) :
    ((s.port q).offerAll notices).SameNotices ((u.responsePlaced p response).port q) := by
  have offered := PortState.offerAll_sameNotices notices link same
  rw [State.responsePlaced_same, performed]
  exact ⟨offered.1, offered.2⟩

theorem State.requestTaken_isPresentPort (s : State) (p q : Port) :
    (s.requestTaken p).isPresentPort q = s.isPresentPort q := by
  unfold State.isPresentPort
  rw [State.requestTaken_same]

/-- What a port is once its request is taken holds the notices it held. -/
theorem State.requestTaken_sameNotices (s : State) (p q : Port) :
    (s.port q).SameNotices ((s.requestTaken p).port q) := by
  rw [State.requestTaken_same]
  exact ⟨rfl, rfl⟩

theorem State.requestTaken_fenced (s : State) (p q : Port) :
    ((s.requestTaken p).port q).fenced = (s.port q).fenced := by
  rw [State.requestTaken_same]

theorem State.requestTaken_link (s : State) (p q : Port) :
    ((s.requestTaken p).port q).link = (s.port q).link := by
  rw [State.requestTaken_same]

/-! ### CLOSE_ENTRIES (R24) -/

theorem performCloseEntries_accepted {s : State} {p : Port} {r : Request} (free : (s.port p).fenced = false)
    (forming : s.race.phase = .forming) (opener : s.race.opener = some p) (loaded : s.course ≠ none) :
    performCloseEntries p r s = (s.enterGrid, .closeEntries s.entryList.length) := by
  have started : s.race.phase ≠ .idle := by rw [forming]; decide
  unfold performCloseEntries
  rw [if_neg (by simp [free]), if_neg started, if_neg (not_not_intro forming), if_neg (not_not_intro opener),
    if_neg (by simpa using loaded)]
  rfl

/-- Settles O19: the entry into GRID between the two ends of its grant. -/
theorem closeEntriesMovesToGrid : Obligations.CloseEntriesMovesToGrid := by
  intro s p r granted free forming opener loaded
  let v := s.requestTaken p
  have done : performCloseEntries p r v = (v.enterGrid, .closeEntries s.entryList.length) :=
    performCloseEntries_accepted ((s.requestTaken_fenced p p).trans free) forming opener loaded
  have told := v.enterGrid_told
  have performed := State.grant_ends granted done
  have runs : exec (.closeEntries p) s = .next (v.enterGrid.responsePlaced p
      (.closeEntries s.entryList.length)) := by
    rw [← performed]
    rfl
  refine ⟨_, runs, ?_, ?_, fun q => ?_⟩
  · rfl
  · have same : ∀ q : Port, (v.port q).SameButNotices (v.enterGrid.port q) := fun q => by
      rw [told.ports]
      exact PortState.offerAll_same _ _
    rw [← performed]
    refine State.grant_frame granted done (fun q => (same q).andPush) (fun _ q => ?_)
      (fun _ idle => absurd idle (by simp [State.enterGrid])) rfl rfl
    rw [same q]
    exact s.requestTaken_pushTimer p q
  · rw [PortState.offerIf_eq_offerAll, ← s.requestTaken_isPresentPort p]
    exact State.grant_sameNotices _ (told.ports q) (s.requestTaken_link p q)
      (s.requestTaken_sameNotices p q)

/-! ### OPEN_RACE (R21) -/

theorem performOpenRace_accepted {s : State} {p : Port} {r : Request} (free : (s.port p).fenced = false)
    (idle : s.race.phase = .idle) :
    performOpenRace p r s = (s.openRace p, .openRace (nextRaceNumber s.race.number)) := by
  unfold performOpenRace
  rw [if_neg (by simp [free]), if_neg (not_not_intro idle)]
  rfl

/-- The push timer that a port has once the race has left IDLE (R156). -/
theorem PortState.startPush_pushTimer (c : PortState) : c.startPush.pushTimer =
    if c.pushInterval ≠ 0 ∧ c.link = .up then some c.pushInterval else c.pushTimer := by
  unfold PortState.startPush
  split <;> rfl

/-- The start of the push timer touches nothing else of the port. -/
theorem PortState.startPush_same (c : PortState) :
    c.startPush = { c with pushTimer := c.startPush.pushTimer } := by
  unfold PortState.startPush
  split <;> rfl

theorem State.opened_port (s : State) (p q : Port) : (s.opened p).port q = (s.port q).startPush := by
  simp [State.opened, State.port]

/-- What an OPEN_RACE in IDLE tells a port: the phase as a present port, and then the entry on the opener's
own port, whose car is the only one (R21). -/
def openNotices (p q : Port) (present : Bool) (number : Nat) : List Notice :=
  noticeIf present (.phase (.changed .forming .none) number) ++
    noticeIf (decide (q = p)) (.entry p .entered .none 1)

/-- An OPEN_RACE in IDLE has its car enter alone, at entry position 1, and tells of it (R21). -/
theorem State.RaceSound.openRace_told {s : State} (h : s.RaceSound) (idle : s.race.phase = .idle) (p : Port) :
    ((s.opened p).appendEntry p).Told
      (fun q => openNotices p q (s.isPresentPort q) (nextRaceNumber s.race.number)) (s.openRace p) := by
  let entered := (s.opened p).appendEntry p
  have position : entered.entryPosition p = 1 := by
    have first : entered.car p = some (Car.entry 1) := by
      simp [entered, State.car, State.appendEntry, State.opened, h.entryIdle idle]
    rw [State.entryPosition, first]
    rfl
  have alone : ∀ q : Port, entered.isRacePort q = decide (q = p) := fun q => by
    rw [State.appendEntry_isRacePort, State.isRacePort_eq]
    have empty : (s.opened p).standingOf q = none := h.legal.standingOf_idle idle q
    rw [empty]
    simp
  have present : ∀ q : Port, entered.isPresentPort q = s.isPresentPort q := fun q => by
    have port : entered.port q = (s.port q).startPush := s.opened_port p q
    rw [State.isPresentPort, port, PortState.startPush_same]
    rfl
  rw [State.openRace_eq, position]
  have phase := State.notifyPhase_told (.changed .forming .none) entered
  refine (phase.trans (State.notifyRace_told (.entry p .entered .none 1) _)).congr fun q => ?_
  rw [phase.isRacePort, alone, present]
  rfl

theorem PortState.SameButNoticesAndPush.trans {c d e : PortState} (h : c.SameButNoticesAndPush d)
    (k : d.SameButNoticesAndPush e) : c.SameButNoticesAndPush e := by
  unfold PortState.SameButNoticesAndPush at *
  rw [k, h]

/-- Settles O13: the race is opened, and its first car entered, between the two ends of the grant. -/
theorem openRaceOpensARace : Obligations.OpenRaceOpensARace := by
  intro s p r granted free sound idle
  let v := s.requestTaken p
  let number := nextRaceNumber s.race.number
  have done : performOpenRace p r v = (v.openRace p, .openRace number) :=
    performOpenRace_accepted ((s.requestTaken_fenced p p).trans free) idle
  have start : v.RaceSound := (s.modifyPort_sameRace p _).sameStandings.sound sound
  have told := start.openRace_told idle p
  have performed := State.grant_ends granted done
  have runs : exec (.openRace p) s = .next ((v.openRace p).responsePlaced p (.openRace number)) := by
    rw [← performed]
    rfl
  have port : ∀ q : Port, (v.openRace p).port q =
      (v.port q).startPush.offerAll (openNotices p q (s.isPresentPort q) number) := fun q => by
    rw [told.ports, ← s.requestTaken_isPresentPort p]
    exact congrArg _ (v.opened_port p q)
  refine ⟨_, runs, ?_, fun q => ?_, ?_, fun q => ?_, fun q => ?_⟩
  · have list : (v.openRace p).entryList = [p] := by
      rw [told.rest]
      exact congrArg (· ++ [p]) (sound.entryIdle idle)
    rw [← list]
    rfl
  · refine (told.car q).trans ?_
    simp only [State.car, State.appendEntry, Bank.get_set]
    split
    · exact congrArg (fun l : List Port => some (Car.entry (l.length + 1))) (sound.entryIdle idle)
    · exact Option.map_eq_none_iff.mp (sound.legal.standingOf_idle idle q)
  · have same : ∀ q : Port, (v.port q).SameButNoticesAndPush ((v.openRace p).port q) := fun q => by
      rw [port]
      refine PortState.SameButNoticesAndPush.trans ?_ (PortState.offerAll_same _ _).andPush
      rw [PortState.startPush_same]
      rfl
    show s.GrantFrame p (.openRace number) _
    rw [← performed]
    refine State.grant_frame granted done same (fun both => ?_) (fun started => absurd idle started) rfl rfl
    exact absurd (both.mp idle) (by simp [State.openRace_eq, State.opened])
  · simp only [PortState.offerIf_eq_offerAll, ← PortState.offerAll_append]
    refine State.grant_sameNotices _ (port q) ?_ ?_ <;> rw [PortState.startPush_same]
    · exact s.requestTaken_link p q
    · exact s.requestTaken_sameNotices p q
  · rw [State.responsePlaced_same, port, PortState.offerAll_same]
    refine (PortState.startPush_pushTimer _).trans ?_
    rw [s.requestTaken_same p q]

/-! ### SET_RULES (R20) -/

/-- Each setting is the request's where the mask selects it, and as it was elsewhere (R20). -/
theorem Settings.apply_value (x : Settings) (payload : List Byte) {i : Nat} (small : i < 9) :
    (x.apply payload).values.getD i 0 =
      if (rulesMask payload).testBit i then rulesValue payload i else x.values.getD i 0 := by
  interval_cases i <;> rfl

/-- The checks of R19 pass. -/
theorem State.rulesRefusal_none {s : State} {p : Port} {r : Request} (free : (s.port p).fenced = false)
    (forming : s.race.phase = .forming) (opener : s.race.opener = some p)
    (checked : rulesInRange r.payload = true) : s.rulesRefusal p r = none := by
  simp [State.rulesRefusal, free, forming, opener, checked, Phase.locked]

theorem performSetRules_accepted {s : State} {p : Port} {r : Request} (free : (s.port p).fenced = false)
    (forming : s.race.phase = .forming) (opener : s.race.opener = some p)
    (checked : rulesInRange r.payload = true) :
    performSetRules p r s =
      (s.modifyRace fun x => { x with settings := x.settings.apply r.payload },
        .setRules (s.race.settings.apply r.payload)) := by
  unfold performSetRules
  rw [State.rulesRefusal_none free forming opener checked]
  rfl

/-- Settles O14: the settings are applied within the grant, and where the mask selects the entry window its
expiry is tested in the same step. -/
theorem setRulesAppliesMaskedSettings : Obligations.SetRulesAppliesMaskedSettings := by
  intro s p r granted free forming opener checked
  let x := s.race.settings.apply r.payload
  let u : State := { s.answered p (.setRules x) with race := { s.race with settings := x } }
  have performed : s.grant p .setRules (performSetRules p) = u := by
    refine (State.grant_ends granted (performSetRules_accepted
      ((s.requestTaken_fenced p p).trans free) forming opener checked)).trans ?_
    unfold u State.answered
    rw [← State.modifyPort_modifyPort]
    rfl
  have runs : exec (.setRules p) s =
      .next (if (rulesMask r.payload).testBit 2 then u.entryWindowExpiry else u) := by
    show Host.Outcome.next _ = _
    rw [granted]
    dsimp only
    rw [performed, State.rulesRefusal_none free forming opener checked]
    simp only [true_and]
  have due : u.entryWindowDue = true ↔
      ∃ passed, s.race.entryWindow = some passed ∧ x.entryWindow ≤ passed :=
    u.entryWindowDue_iff.trans (and_iff_right forming)
  refine ⟨x, u, fun i small => s.race.settings.apply_value r.payload small, rfl, fun unselected => ?_,
    fun selected => ?_, fun passed window short => ?_, due⟩
  · rw [runs, unselected]
    rfl
  · rw [runs, selected]
    rfl
  · have waits : u.entryWindowDue = false := by
      rw [← Bool.not_eq_true, due]
      rintro ⟨ran, window', long⟩
      obtain rfl := Option.some.inj (window.symm.trans window')
      omega
    rw [runs, State.entryWindowExpiry_waits waits, ite_self]

end Sys2Proof.Machine
end

section
/-! PROOF. The running order in its two shapes (R92, R93): the entry list before the green, the groups from the
green on; and the changes that leave it as it is. -/
namespace Sys2Proof.Machine

/-! ### The place of one car -/

/-- Where a standing puts a car of the running order (R93): in no group yet, in the active group, in the RETIRED
group, or in the finish list with its time. -/
inductive Band where
  | waiting
  | active
  | retired
  | finished (time : Nat)

/-- The band of a standing. -/
def Standing.band : Standing → Band
  | .entered | .ready => .waiting
  | .racing | .coasting | .stopped => .active
  | .retired _ _ => .retired
  | .finished time => .finished time

/-- What the running order reads of a car. -/
structure Place where
  band : Band
  distance : Nat
  entryPosition : Nat

/-- The place of a car. -/
def Car.place (c : Car) : Place := ⟨c.standing.band, c.distance, c.entryPosition⟩

/-- The place of the car in a slot, if there is one. -/
def State.placeOf (s : State) (p : Port) : Option Place := (s.car p).map Car.place

/-- The band of the car in a slot, if there is one. -/
def State.bandOf (s : State) (p : Port) : Option Band := (s.placeOf p).map Place.band

theorem State.placeOf_of {s : State} {p : Port} {c : Car} (h : s.car p = some c) :
    s.placeOf p = some c.place := by
  rw [State.placeOf, h]; rfl

theorem State.bandOf_of {s : State} {p : Port} {c : Car} (h : s.car p = some c) :
    s.bandOf p = some c.standing.band := by
  rw [State.bandOf, State.placeOf_of h]; rfl

theorem State.bandOf_eq_some_iff {s : State} {p : Port} {b : Band} :
    s.bandOf p = some b ↔ ∃ c : Car, s.car p = some c ∧ c.standing.band = b := by
  rw [State.bandOf, State.placeOf, Option.map_map]
  exact Option.map_eq_some_iff

theorem State.isRacePort_eq_bandOf (s : State) (p : Port) : s.isRacePort p = (s.bandOf p).isSome := by
  rw [State.bandOf, State.placeOf, Option.isSome_map, Option.isSome_map, State.isRacePort]

theorem State.distance_eq_placeOf (s : State) (p : Port) :
    s.distance p = (s.placeOf p).elim 0 Place.distance := by
  unfold State.distance State.placeOf
  cases s.car p <;> rfl

theorem Standing.band_active_iff (x : Standing) : x.band = .active ↔ x.active = true := by
  cases x <;> simp [Standing.band, Standing.active]

theorem Standing.band_retired_iff (x : Standing) : x.band = .retired ↔ x.state = .retired := by
  cases x <;> simp [Standing.band, Standing.state]

theorem Standing.band_finished_iff (x : Standing) (time : Nat) :
    x.band = .finished time ↔ x = .finished time := by
  cases x <;> simp [Standing.band]

/-- The active group is for the cars of the active band (R93). -/
theorem State.bandOf_active_iff (s : State) (p : Port) :
    s.bandOf p = some .active ↔ ∃ c : Car, s.car p = some c ∧ c.standing.active = true := by
  simp only [State.bandOf_eq_some_iff, Standing.band_active_iff]

/-- The RETIRED group is for the RETIRED cars (R93). -/
theorem State.bandOf_retired_iff (s : State) (p : Port) :
    s.bandOf p = some .retired ↔ s.carState p = .retired := by
  simp only [State.bandOf_eq_some_iff, Standing.band_retired_iff]
  unfold State.carState
  cases s.car p <;> simp

/-- The finish list is for the FINISHED cars with their times (R103). -/
theorem State.bandOf_finished_iff (s : State) (p : Port) (time : Nat) :
    s.bandOf p = some (.finished time) ↔ ∃ c : Car, s.car p = some c ∧ c.standing = .finished time := by
  simp only [State.bandOf_eq_some_iff, Standing.band_finished_iff]

theorem Standing.band_of_running {x : Standing} (runs : x.running = true) : x.band = .active := by
  cases x with
  | racing | coasting => rfl
  | entered | ready | finished _ | stopped | retired _ _ => exact absurd runs Bool.false_ne_true

/-- A car that is RACING or COASTING is in the active group. -/
theorem State.bandOf_of_carState {s : State} {p : Port}
    (runs : s.carState p = .racing ∨ s.carState p = .coasting) : s.bandOf p = some .active := by
  obtain ⟨c, car, state⟩ : ∃ c : Car, s.car p = some c ∧
      (c.standing.state = .racing ∨ c.standing.state = .coasting) := by
    unfold State.carState at runs
    cases car : s.car p <;> simp_all
  rw [State.bandOf_of car]
  cases standing : c.standing <;> simp_all [Standing.state, Standing.band]

/-! ### Changes that leave the running order -/

/-- The lists, the side of the green and every car's place are the same, and the race clock has not gone back. -/
structure State.KeepsOrder (s t : State) : Prop where
  green : t.race.phase.afterGreen = s.race.phase.afterGreen
  entryList : t.entryList = s.entryList
  activeGroup : t.activeGroup = s.activeGroup
  retiredGroup : t.retiredGroup = s.retiredGroup
  finishList : t.finishList = s.finishList
  clock : s.raceClock ≤ t.raceClock
  places : ∀ q : Port, t.placeOf q = s.placeOf q

theorem State.KeepsOrder.trans {s t u : State} (h : s.KeepsOrder t) (k : t.KeepsOrder u) :
    s.KeepsOrder u where
  green := k.green.trans h.green
  entryList := k.entryList.trans h.entryList
  activeGroup := k.activeGroup.trans h.activeGroup
  retiredGroup := k.retiredGroup.trans h.retiredGroup
  finishList := k.finishList.trans h.finishList
  clock := h.clock.trans k.clock
  places := fun q => (k.places q).trans (h.places q)

theorem State.SameRace.keepsOrder {s t : State} (h : s.SameRace t) : s.KeepsOrder t where
  green := by rw [h.race]
  entryList := h.entryList
  activeGroup := h.activeGroup
  retiredGroup := h.retiredGroup
  finishList := h.finishList
  clock := h.raceClock.ge
  places := fun q => by rw [State.placeOf, State.car, h.cars]; rfl

theorem State.KeepsOrder.refl (s : State) : s.KeepsOrder s :=
  State.SameRace.keepsOrder ⟨rfl, rfl, rfl, rfl, rfl, rfl, rfl, rfl, rfl⟩

theorem State.OnlyNotices.keepsOrder {s t : State} (h : s.OnlyNotices t) : s.KeepsOrder t :=
  h.sameRace.keepsOrder

/-- What leaves the running order and then raises notices leaves the running order. -/
theorem State.OnlyNotices.keepsOrder_after {s t u : State} (h : t.OnlyNotices u) (k : s.KeepsOrder t) :
    s.KeepsOrder u := k.trans h.keepsOrder

theorem State.modifyRace_keepsOrder {s : State} {f : RaceRecord → RaceRecord}
    (green : (f s.race).phase.afterGreen = s.race.phase.afterGreen) : s.KeepsOrder (s.modifyRace f) :=
  ⟨green, rfl, rfl, rfl, rfl, le_refl _, fun _ => rfl⟩

theorem State.modifyCar_keepsOrder {s : State} {p : Port} {f : Car → Car}
    (same : ∀ c, s.car p = some c → (f c).place = c.place) : s.KeepsOrder (s.modifyCar p f) where
  green := rfl
  entryList := rfl
  activeGroup := rfl
  retiredGroup := rfl
  finishList := rfl
  clock := le_refl _
  places := fun q => by
    unfold State.placeOf
    rw [State.modifyCar_car]
    split
    · next own => rw [own, Option.map_map]; exact Option.map_congr same
    · rfl

theorem State.KeepsOrder.isRacePort {s t : State} (k : s.KeepsOrder t) (q : Port) :
    t.isRacePort q = s.isRacePort q := by
  rw [State.isRacePort_eq_bandOf, State.isRacePort_eq_bandOf, State.bandOf, k.places, State.bandOf]

theorem State.KeepsOrder.bandOf {s t : State} (k : s.KeepsOrder t) (q : Port) :
    t.bandOf q = s.bandOf q := by
  rw [State.bandOf, k.places, State.bandOf]

theorem State.KeepsOrder.distance {s t : State} (k : s.KeepsOrder t) : t.distance = s.distance :=
  funext fun q => by rw [State.distance_eq_placeOf, k.places, State.distance_eq_placeOf]

/-! ### Entry positions -/

/-- Each car's entry position is its place in a list (R44). -/
def State.PlacedIn (s : State) (l : List Port) : Prop :=
  ∀ (q : Port) (c : Car), s.car q = some c →
    l.idxOf? q = some (c.entryPosition - 1) ∧ 1 ≤ c.entryPosition

/-- Cars at the entry positions they had stand at their places in the list they were in. -/
theorem State.PlacedIn.congr {s t : State} {l : List Port} (h : s.PlacedIn l)
    (same : ∀ q : Port, (t.car q).map Car.entryPosition = (s.car q).map Car.entryPosition) : t.PlacedIn l := by
  intro q d car
  have there := same q
  rw [car] at there
  obtain ⟨c, stood, position⟩ := Option.map_eq_some_iff.mp there.symm
  rw [← position]
  exact h q c stood

theorem State.entryPosition_eq_placeOf (s : State) (q : Port) :
    (s.car q).map Car.entryPosition = (s.placeOf q).map Place.entryPosition := by
  rw [State.placeOf, Option.map_map]; rfl

theorem State.KeepsOrder.placedIn {s t : State} {l : List Port} (k : s.KeepsOrder t) (h : s.PlacedIn l) :
    t.PlacedIn l :=
  h.congr fun q => by rw [State.entryPosition_eq_placeOf, k.places, State.entryPosition_eq_placeOf]

/-- Whatever leaves the running order keeps it sound. -/
theorem State.KeepsOrder.sound {s t : State} (k : s.KeepsOrder t) (h : s.OrderSound) : t.OrderSound := by
  have order : t.runningOrder = s.runningOrder := by
    unfold State.runningOrder
    rw [k.green, k.entryList, k.activeGroup, k.retiredGroup, k.finishList]
  constructor
  · rw [order]; exact h.nodup
  · intro p
    rw [order, k.isRacePort]
    exact h.complete p
  · intro p member
    rw [← State.bandOf_active_iff, k.bandOf, State.bandOf_active_iff]
    exact h.active p (k.activeGroup ▸ member)
  · intro p member
    rw [← State.bandOf_retired_iff, k.bandOf, State.bandOf_retired_iff]
    exact h.retired p (k.retiredGroup ▸ member)
  · intro e member
    rw [← State.bandOf_finished_iff, k.bandOf, State.bandOf_finished_iff]
    exact h.finished e (k.finishList ▸ member)
  · rw [k.activeGroup, k.distance]; exact h.activeOrder
  · rw [k.retiredGroup, k.distance]; exact h.retiredOrder
  · rw [k.finishList]
    exact ⟨h.times.1, fun e member => (h.times.2 e member).trans k.clock⟩
  · rw [k.entryList]
    exact k.placedIn h.entryPositions

/-! ### Before the green -/

/-- The running order before the green: the groups are empty, and the entry list holds every car once and at its
place (R44, R92). -/
structure State.EntriesSound (s : State) : Prop where
  before : s.race.phase.afterGreen = false
  groups : s.activeGroup = [] ∧ s.retiredGroup = [] ∧ s.finishList = []
  places : s.EntryPlaces
  complete : ∀ q : Port, q ∈ s.entryList ↔ s.isRacePort q = true

theorem State.OrderSound.entries {s : State} (h : s.OrderSound) (race : s.RaceSound)
    (before : s.race.phase.afterGreen = false) : s.EntriesSound :=
  ⟨before, race.groupsBefore before, (h.entryList before).1, (h.entryList before).2⟩

theorem State.EntriesSound.order {s : State} (h : s.EntriesSound) : s.OrderSound := by
  obtain ⟨active, retired, finished⟩ := h.groups
  have order : s.runningOrder = s.entryList := by
    unfold State.runningOrder
    rw [h.before]
    rfl
  constructor
  · rw [order]; exact h.places.nodup
  · rw [order]; exact h.complete
  · simp [active]
  · simp [retired]
  · simp [finished]
  · rw [active]; exact List.Pairwise.nil
  · rw [retired]; exact List.Pairwise.nil
  · rw [finished]; exact ⟨List.Pairwise.nil, by simp⟩
  · exact h.places.places

/-- What leaves the running order before the green keeps the entries sound. -/
theorem State.KeepsOrder.entries {s t : State} (k : s.KeepsOrder t) (h : s.EntriesSound) :
    t.EntriesSound where
  before := k.green.trans h.before
  groups := by rw [k.activeGroup, k.retiredGroup, k.finishList]; exact h.groups
  places := by
    refine ⟨k.entryList ▸ h.places.nodup, ?_⟩
    rw [k.entryList]
    exact k.placedIn h.places.places
  complete := fun q => by rw [k.entryList, k.isRacePort]; exact h.complete q

/-! ### From the green on -/

/-- The running order from the green on: each group holds exactly the cars of its band, each once and in its order
(R93, R95, R98, R103). -/
structure State.GroupsSound (s : State) : Prop where
  after : s.race.phase.afterGreen = true
  /-- Every car has started. -/
  started : ∀ q : Port, s.bandOf q ≠ some .waiting
  activeOnce : s.activeGroup.Nodup
  active : ∀ q : Port, q ∈ s.activeGroup ↔ s.bandOf q = some .active
  activeOrder : NonIncreasing (s.activeGroup.map s.distance)
  retiredOnce : s.retiredGroup.Nodup
  retired : ∀ q : Port, q ∈ s.retiredGroup ↔ s.bandOf q = some .retired
  retiredOrder : NonIncreasing (s.retiredGroup.map s.distance)
  finishedOnce : (s.finishList.map FinishEntry.slot).Nodup
  finished : ∀ e : FinishEntry, e ∈ s.finishList ↔ s.bandOf e.slot = some (.finished e.time)
  times : NonIncreasing (s.finishList.map FinishEntry.time).reverse ∧
    ∀ e ∈ s.finishList, e.time ≤ s.raceClock
  entries : s.PlacedIn s.entryList

theorem State.runningOrder_after {s : State} (after : s.race.phase.afterGreen = true) :
    s.runningOrder = s.finishList.map FinishEntry.slot ++ s.activeGroup ++ s.retiredGroup :=
  if_pos after

/-- The slots of the finish list are those of the FINISHED cars. -/
theorem State.mem_finishSlots_iff {s : State}
    (finished : ∀ e : FinishEntry, e ∈ s.finishList ↔ s.bandOf e.slot = some (.finished e.time)) (q : Port) :
    q ∈ s.finishList.map FinishEntry.slot ↔ ∃ time : Nat, s.bandOf q = some (.finished time) := by
  rw [List.mem_map]
  constructor
  · rintro ⟨e, member, rfl⟩
    exact ⟨e.time, (finished e).mp member⟩
  · rintro ⟨time, band⟩
    exact ⟨⟨q, time⟩, (finished ⟨q, time⟩).mpr band, rfl⟩

theorem State.GroupsSound.order {s : State} (h : s.GroupsSound) : s.OrderSound := by
  have slots := State.mem_finishSlots_iff h.finished
  constructor
  · rw [State.runningOrder_after h.after, List.nodup_append', List.nodup_append']
    refine ⟨⟨h.finishedOnce, h.activeOnce, fun q first second => ?_⟩, h.retiredOnce, fun q first second => ?_⟩
    · obtain ⟨time, band⟩ := (slots q).mp first
      rw [(h.active q).mp second] at band
      exact absurd band (by simp)
    · have band := (h.retired q).mp second
      rcases List.mem_append.mp first with finished | active
      · obtain ⟨time, other⟩ := (slots q).mp finished
        rw [band] at other
        exact absurd other (by simp)
      · rw [(h.active q).mp active] at band
        exact absurd band (by simp)
  · intro q
    rw [State.runningOrder_after h.after, List.mem_append, List.mem_append, slots, h.active, h.retired,
      State.isRacePort_eq_bandOf]
    have started := h.started q
    cases band : s.bandOf q with
    | none => simp
    | some b => cases b <;> simp_all
  · exact fun q member => (s.bandOf_active_iff q).mp ((h.active q).mp member)
  · exact fun q member => (s.bandOf_retired_iff q).mp ((h.retired q).mp member)
  · exact fun e member => (s.bandOf_finished_iff e.slot e.time).mp ((h.finished e).mp member)
  · exact h.activeOrder
  · exact h.retiredOrder
  · exact h.times
  · exact h.entries

theorem State.OrderSound.groups {s : State} (h : s.OrderSound) (after : s.race.phase.afterGreen = true) :
    s.GroupsSound := by
  have active := fun q member => (s.bandOf_active_iff q).mpr (h.active q member)
  have retired := fun q member => (s.bandOf_retired_iff q).mpr (h.retired q member)
  have finished := fun e member => (s.bandOf_finished_iff e.slot e.time).mpr (h.finished e member)
  have nodup := h.nodup
  rw [State.runningOrder_after after, List.nodup_append', List.nodup_append'] at nodup
  obtain ⟨⟨finishedOnce, activeOnce, -⟩, retiredOnce, -⟩ := nodup
  -- every car stands in one of the three parts of the running order
  have somewhere : ∀ (q : Port) (b : Band), s.bandOf q = some b →
      (∃ e ∈ s.finishList, e.slot = q) ∨ q ∈ s.activeGroup ∨ q ∈ s.retiredGroup := fun q b band => by
    have there := (h.complete q).mpr (by rw [State.isRacePort_eq_bandOf, band]; rfl)
    rw [State.runningOrder_after after, List.mem_append, List.mem_append, List.mem_map, or_assoc] at there
    exact there
  refine ⟨after, fun q band => ?_, activeOnce, fun q => ⟨active q, fun band => ?_⟩, h.activeOrder, retiredOnce,
    fun q => ⟨retired q, fun band => ?_⟩, h.retiredOrder, finishedOnce, fun e => ⟨finished e, fun band => ?_⟩,
    h.times, h.entryPositions⟩
  all_goals rcases somewhere _ _ band with ⟨f, member, slot⟩ | member | member
  · exact absurd ((slot ▸ finished f member).symm.trans band) (by simp)
  · exact absurd ((active q member).symm.trans band) (by simp)
  · exact absurd ((retired q member).symm.trans band) (by simp)
  · exact absurd ((slot ▸ finished f member).symm.trans band) (by simp)
  · exact member
  · exact absurd ((retired q member).symm.trans band) (by simp)
  · exact absurd ((slot ▸ finished f member).symm.trans band) (by simp)
  · exact absurd ((active q member).symm.trans band) (by simp)
  · exact member
  · have same := (slot ▸ finished f member).symm.trans band
    have : f = e := by
      cases f
      cases e
      simp_all
    exact this ▸ member
  · exact absurd ((active _ member).symm.trans band) (by simp)
  · exact absurd ((retired _ member).symm.trans band) (by simp)

end Sys2Proof.Machine
end

section
/-! PROOF. The running order from phase to phase: entries and withdrawals, the green, RESULTS and the return to
IDLE, and the effects of presence (R30, R36, R44, R52, R137 to R139). -/
namespace Sys2Proof.Machine

/-! ### Entries and withdrawals (R44, R47, R52) -/

theorem State.returnToIdle_entries (reason : Reason) (s : State) : (s.returnToIdle reason).EntriesSound := by
  have back := State.returnToIdle_spec reason s
  obtain ⟨entry, active, retired, finished, -⟩ := back.lists
  refine ⟨by rw [back.race]; rfl, ⟨active, retired, finished⟩, ⟨?_, fun q c car => ?_⟩, fun q => ?_⟩
  · rw [entry]; exact List.nodup_nil
  · rw [back.cars] at car
    exact absurd car (by simp)
  · rw [entry, State.isRacePort, back.cars]
    simp

theorem State.EntriesSound.withdraw {s : State} (h : s.EntriesSound) (p : Port) (reason : Reason) :
    (s.withdraw p reason).EntriesSound := by
  cases car : s.car p with
  | none => rw [State.withdraw_none reason car]; exact h
  | some c =>
    have gone := State.withdraw_spec reason car
    have list : (s.withdraw p reason).entryList = s.entryList.filter (fun q => q ≠ p) := by rw [gone.rest]
    refine ⟨by rw [State.withdraw_race]; exact h.before, by rw [gone.rest]; exact h.groups,
      h.places.withdrawn car gone, fun q => ?_⟩
    rw [list, State.withdraw_isRacePort, List.mem_filter, h.complete]
    by_cases e : q = p <;> simp [e]

theorem State.EntriesSound.withdrawEach {s : State} (h : s.EntriesSound) (reason : Reason) (l : List Port) :
    (s.withdrawEach l reason).EntriesSound := by
  induction l generalizing s with
  | nil => exact h
  | cons p rest ih => exact ih (h.withdraw p reason)

/-- A car that was not in the race enters it behind all others (R44, R47). -/
theorem State.EntriesSound.appendEntry {s : State} {p : Port} (h : s.EntriesSound)
    (out : s.isRacePort p = false) : (s.appendEntry p).EntriesSound := by
  have fresh : p ∉ s.entryList := fun member =>
    absurd (out.symm.trans ((h.complete p).mp member)) (by decide)
  refine ⟨h.before, h.groups, ⟨?_, fun q c car => ?_⟩, fun q => ?_⟩
  · exact h.places.nodup.append (List.nodup_singleton p) (by simpa using fresh)
  · simp only [State.car, State.appendEntry, Bank.get_set] at car
    have place : (s.appendEntry p).entryList.idxOf? q =
        (s.entryList.idxOf? q).or (([p].idxOf? q).map (· + s.entryList.length)) := List.findIdx?_append
    rw [place]
    split at car
    · next own =>
      obtain rfl := Option.some.inj car
      rw [own, List.idxOf?_eq_none_iff.mpr fresh]
      simp [Car.entry, List.idxOf?_cons]
    · obtain ⟨place, least⟩ := h.places.places q c car
      rw [place]
      exact ⟨rfl, least⟩
  · show q ∈ s.entryList ++ [p] ↔ _
    rw [State.appendEntry_isRacePort, List.mem_append, h.complete]
    simp [or_comm]

/-! ### The tests that follow a withdrawal (R23, R27, R29, R114) -/

theorem State.enterGrid_keepsOrder {s : State} (before : s.race.phase.afterGreen = false) :
    s.KeepsOrder s.enterGrid :=
  (State.notifyPhase_only _ _).keepsOrder_after (State.modifyRace_keepsOrder before.symm)

theorem State.enterCountdown_keepsOrder {s : State} (before : s.race.phase.afterGreen = false) :
    s.KeepsOrder s.enterCountdown :=
  s.enterCountdown_only.keepsOrder_after (State.modifyRace_keepsOrder before.symm)

theorem State.holdTest_keepsOrder (s : State) : s.KeepsOrder s.holdTest := by
  obtain ⟨slot, timer, only⟩ := s.holdTest_only
  exact (State.modifyRace_keepsOrder rfl).trans only.keepsOrder

theorem State.EntriesSound.handover {s : State} (h : s.EntriesSound) : s.handover.EntriesSound := by
  unfold State.handover
  split
  · exact ((State.modifyRace_keepsOrder rfl).trans (State.notifyPhase_only _ _).keepsOrder).entries h
  · exact s.returnToIdle_entries _

theorem State.EntriesSound.gridTests {s : State} (h : s.EntriesSound) : s.gridTests.EntriesSound := by
  unfold State.gridTests
  split_ifs
  · exact s.returnToIdle_entries _
  · exact (State.enterCountdown_keepsOrder h.before).entries h
  · exact h

theorem State.EntriesSound.countdownTests {s : State} (h : s.EntriesSound) :
    s.countdownTests.EntriesSound := by
  unfold State.countdownTests
  split
  · exact s.returnToIdle_entries _
  · exact s.holdTest_keepsOrder.entries h

theorem State.EntriesSound.withdrawAndTest {s : State} (h : s.EntriesSound) (p : Port) (reason : Reason) :
    (s.withdrawAndTest p reason).EntriesSound := by
  have left := h.withdraw p reason
  unfold State.withdrawAndTest
  dsimp only
  split
  · split
    · exact left.handover
    · exact left
  · exact left.gridTests
  · exact left.countdownTests
  all_goals exact left

/-! ### The green (R30) -/

/-- At the green every car is in the active group at D 0, at the entry position it had. -/
theorem State.RaceSound.enterGreen_placeOf {s : State} (h : s.RaceSound) (count : s.race.phase = .countdown)
    (q : Port) : s.enterGreen.placeOf q = (s.placeOf q).map fun x => ⟨.active, 0, x.entryPosition⟩ := by
  unfold State.enterGreen
  rw [State.placeOf, State.notifyPhase_car, State.placeOf]
  simp only [State.car, Bank.get_map, Option.map_map]
  refine Option.map_congr fun c car => ?_
  simp [Car.start, Car.place, Standing.band, h.ready_of_countdown count car]

theorem State.EntriesSound.enterGreen {s : State} (h : s.EntriesSound) (race : s.RaceSound)
    (count : s.race.phase = .countdown) : s.enterGreen.GroupsSound := by
  have place := race.enterGreen_placeOf count
  obtain ⟨active, retired, finished⟩ := h.groups
  have list : s.enterGreen.activeGroup = s.entryList := rfl
  have noneRetired : s.enterGreen.retiredGroup = [] := retired
  have noneFinished : s.enterGreen.finishList = [] := finished
  have band : ∀ (q : Port) (b : Band),
      s.enterGreen.bandOf q = some b ↔ s.isRacePort q = true ∧ b = .active := fun q b => by
    rw [State.bandOf, place, State.isRacePort_eq_bandOf, State.bandOf]
    cases s.placeOf q <;> simp [eq_comm]
  have still : ∀ q : Port, s.enterGreen.distance q = 0 := fun q => by
    rw [State.distance_eq_placeOf, place]
    cases s.placeOf q <;> rfl
  refine ⟨rfl, fun q waits => ?_, h.places.nodup, fun q => ?_, ?_, ?_, fun q => ?_, ?_, ?_, fun e => ?_, ?_, ?_⟩
  · exact absurd ((band q _).mp waits).2 (by simp)
  · rw [list, band, h.complete]
    simp
  · rw [NonIncreasing, List.pairwise_map]
    exact List.pairwise_of_forall fun q r => by rw [still, still]
  · rw [noneRetired]; exact List.nodup_nil
  · rw [noneRetired, band]; simp
  · rw [noneRetired]; exact List.Pairwise.nil
  · rw [noneFinished]; exact List.nodup_nil
  · rw [noneFinished, band]; simp
  · rw [noneFinished]; exact ⟨List.Pairwise.nil, by simp⟩
  · refine State.PlacedIn.congr (s := s) h.places.places fun q => ?_
    rw [State.entryPosition_eq_placeOf, place, Option.map_map, State.entryPosition_eq_placeOf]
    rfl

/-! ### RESULTS and the release (R36, R37) -/

theorem State.OrderSound.releaseTest {s : State} (h : s.OrderSound) : s.releaseTest.OrderSound := by
  unfold State.releaseTest
  split
  · exact (s.returnToIdle_entries _).order
  · exact h

theorem State.OrderSound.release {s : State} (h : s.OrderSound) (p : Port) : (s.release p).OrderSound :=
  ((State.modifyRace_keepsOrder rfl).sound h).releaseTest

/-- A car that stops keeps its place in the active group. -/
theorem Car.stop_place (c : Car) : c.stop.place = c.place := by
  unfold Car.stop
  cases standing : c.standing <;> simp [Standing.running, Car.place, Standing.band, standing]

theorem State.stopRace_keepsOrder {s : State} (reason : Reason) (after : s.race.phase.afterGreen = true) :
    s.KeepsOrder (s.stopRace reason) where
  green := after.symm
  entryList := rfl
  activeGroup := rfl
  retiredGroup := rfl
  finishList := rfl
  clock := le_refl _
  places := fun q => by
    simp only [State.placeOf, State.car, State.stopRace, Bank.get_map, Option.map_map]
    exact Option.map_congr fun c _ => c.stop_place

theorem State.openResults_keepsOrder (s : State) (reason : Reason) : s.KeepsOrder (s.openResults reason) :=
  ⟨rfl, rfl, rfl, rfl, rfl, le_refl _, fun _ => rfl⟩

theorem State.OrderSound.enterResults {s : State} (h : s.OrderSound) (reason : Reason)
    (after : s.race.phase.afterGreen = true) : (s.enterResults reason).OrderSound := by
  have entered := ((State.stopRace_keepsOrder reason after).trans
    ((s.stopRace reason).openResults_keepsOrder reason)).trans
    (State.notifyPhase_only (.changed .results reason) _).keepsOrder
  exact (entered.sound h).releaseTest

theorem State.enterFinishing_keepsOrder {s : State} (after : s.race.phase.afterGreen = true) :
    s.KeepsOrder s.enterFinishing :=
  (State.notifyPhase_only _ _).keepsOrder_after (State.modifyRace_keepsOrder after.symm)

theorem State.OrderSound.endTests {s : State} (h : s.OrderSound) (afterFinish : Bool)
    (after : s.race.phase.afterGreen = true) : (s.endTests afterFinish).OrderSound := by
  unfold State.endTests
  split
  · exact h.enterResults _ after
  split
  · exact h.enterResults _ after
  split
  · split
    · exact h.enterResults _ after
    · exact (State.enterFinishing_keepsOrder after).sound h
  · exact h

/-! ### Votes (R121 to R125) -/

theorem State.dropVote_keepsOrder (s : State) (p : Port) : s.KeepsOrder (s.dropVote p) :=
  State.modifyRace_keepsOrder rfl

theorem State.castVote_keepsOrder (s : State) (p : Port) : s.KeepsOrder (s.castVote p) := by
  have cast : s.KeepsOrder (s.modifyRace fun r => { r with votes := r.votes.set p (some s.raceClock) }) :=
    State.modifyRace_keepsOrder rfl
  unfold State.castVote
  dsimp only
  split
  · exact cast
  · exact cast.trans (State.notifyVotes_only _).keepsOrder

theorem State.voteExpiry_keepsOrder (s : State) (p : Port) : s.KeepsOrder (s.voteExpiry p) := by
  unfold State.voteExpiry
  split
  · exact (s.dropVote_keepsOrder p).trans (State.notifyVotes_only _).keepsOrder
  · exact .refl s

/-! ### Placing by D (R94, R95, R98) -/

theorem insertAfterLast_perm (test : Port → Bool) (p : Port) (l : List Port) :
    (insertAfterLast test p l).Perm (p :: l) := by
  induction l with
  | nil => exact .refl _
  | cons q rest ih =>
    unfold insertAfterLast
    split
    · exact (ih.cons q).trans (.swap p q rest)
    · exact .refl _

/-- A car put after the last one whose value is at least its own leaves the values in order. -/
theorem insertAfterLast_nonIncreasing (value : Port → Nat) (p : Port) {l : List Port}
    (sorted : NonIncreasing (l.map value)) :
    NonIncreasing ((insertAfterLast (fun q => decide (value p ≤ value q)) p l).map value) := by
  induction l with
  | nil => exact List.pairwise_singleton _ _
  | cons q rest ih =>
    obtain ⟨first, later⟩ := List.pairwise_cons.mp sorted
    have first : ∀ r ∈ rest, value r ≤ value q := fun r member => first _ (List.mem_map_of_mem member)
    unfold insertAfterLast
    split
    · next some =>
      refine List.pairwise_cons.mpr ⟨List.forall_mem_map.mpr fun r member => ?_, ih later⟩
      rcases List.mem_cons.mp ((insertAfterLast_perm _ p rest).mem_iff.mp member) with rfl | member
      · obtain ⟨y, there, reaches⟩ := List.any_eq_true.mp some
        have reaches := of_decide_eq_true reaches
        rcases List.mem_cons.mp there with rfl | there
        · exact reaches
        · exact reaches.trans (first y there)
      · exact first r member
    · next none =>
      refine List.pairwise_cons.mpr ⟨List.forall_mem_map.mpr fun r member => ?_, sorted⟩
      refine Nat.le_of_not_le fun reaches => none ?_
      exact List.any_eq_true.mpr ⟨r, member, decide_eq_true reaches⟩

theorem State.placeByDistance_perm (s : State) (p : Port) (l : List Port) :
    (s.placeByDistance p l).Perm (p :: l) := insertAfterLast_perm _ p l

theorem State.placeByDistance_nonIncreasing (s : State) (p : Port) {l : List Port}
    (sorted : NonIncreasing (l.map s.distance)) :
    NonIncreasing ((s.placeByDistance p l).map s.distance) :=
  insertAfterLast_nonIncreasing s.distance p sorted

/-- A group without one of its cars is in order as it was. -/
theorem NonIncreasing.filter {value : Port → Nat} {l : List Port} (h : NonIncreasing (l.map value))
    (test : Port → Bool) : NonIncreasing ((l.filter test).map value) :=
  List.Pairwise.sublist (List.filter_sublist.map value) h

end Sys2Proof.Machine
end

section
/-! PROOF. The groups under retirements and reports (R54, R82, R94, R97, R98): the car of one port leaves its place
in the active group for another there, for the finish list or for the RETIRED group. -/
namespace Sys2Proof.Machine

/-! ### The groups without one car -/

/-- While one car of the active group moves, the rest of that group and the RETIRED group stay in order. -/
theorem State.GroupsSound.rest_order {s t : State} {p : Port} (h : s.GroupsSound)
    (active : s.bandOf p = some .active) (same : ∀ q : Port, q ≠ p → t.distance q = s.distance q) :
    NonIncreasing ((s.activeGroup.filter (fun q => q ≠ p)).map t.distance) ∧
      NonIncreasing (s.retiredGroup.map t.distance) := by
  have behind : ∀ q ∈ s.activeGroup.filter (fun q => q ≠ p), t.distance q = s.distance q := fun q member =>
    same q (of_decide_eq_true (List.mem_filter.mp member).2)
  have out : ∀ q ∈ s.retiredGroup, t.distance q = s.distance q := fun q member => by
    refine same q fun own => ?_
    have band := (h.retired q).mp member
    rw [own, active] at band
    exact absurd band (by simp)
  rw [List.map_congr_left behind, List.map_congr_left out]
  exact ⟨h.activeOrder.filter _, h.retiredOrder⟩

/-- What is left of the active group when one car leaves it. -/
theorem State.GroupsSound.mem_rest {s : State} (h : s.GroupsSound) (p q : Port) :
    q ∈ s.activeGroup.filter (fun x => x ≠ p) ↔ q ≠ p ∧ s.bandOf q = some .active := by
  rw [List.mem_filter, h.active, decide_eq_true_iff, and_comm]

/-- A car of the active group is not in the finish list. -/
theorem State.GroupsSound.not_finished {s : State} {p : Port} (h : s.GroupsSound)
    (active : s.bandOf p = some .active) : p ∉ s.finishList.map FinishEntry.slot := by
  rw [State.mem_finishSlots_iff h.finished, active]
  simp

/-! ### Retirement (R54, R98) -/

theorem State.Retired.placeOf {s t : State} {p : Port} {reason : Reason} (gone : s.Retired p reason t)
    (q : Port) :
    t.placeOf q = if q = p then (s.placeOf p).map fun x => { x with band := .retired } else s.placeOf q := by
  unfold State.placeOf
  split
  · next own => rw [own, gone.car, Option.map_map, Option.map_map]; rfl
  · next other => rw [gone.others q other]

/-- A car of the active group that retires moves into the RETIRED group (R98). -/
theorem State.GroupsSound.retired_sound {s t : State} {p : Port} {reason : Reason} (h : s.GroupsSound)
    (active : s.bandOf p = some .active) (gone : s.Retired p reason t) : t.GroupsSound := by
  have place := gone.placeOf
  have distance : t.distance = s.distance := funext fun q => by
    rw [State.distance_eq_placeOf, place, State.distance_eq_placeOf]
    split
    · next own => rw [own]; cases s.placeOf p <;> rfl
    · rfl
  have band : ∀ q : Port, t.bandOf q = if q = p then some .retired else s.bandOf q := fun q => by
    rw [State.bandOf, place]
    split
    · obtain ⟨x, there, -⟩ := Option.map_eq_some_iff.mp active
      rw [there]
      rfl
    · rfl
  have activeGroup : t.activeGroup = s.activeGroup.filter (fun q => q ≠ p) := by rw [gone.rest]
  have retiredGroup : t.retiredGroup = s.placeByDistance p s.retiredGroup := by rw [gone.rest]
  have finishList : t.finishList = s.finishList := by rw [gone.rest]
  have clock : t.raceClock = s.raceClock := by rw [gone.rest]
  have entryList : t.entryList = s.entryList := by rw [gone.rest]
  have placed := s.placeByDistance_perm p s.retiredGroup
  have fresh : p ∉ s.retiredGroup := by rw [h.retired, active]; simp
  refine ⟨by rw [gone.rest]; exact h.after, fun q => ?_, ?_, fun q => ?_, ?_, ?_, fun q => ?_, ?_, ?_,
    fun e => ?_, ?_, ?_⟩
  · rw [band]
    split
    · simp
    · exact h.started q
  · rw [activeGroup]; exact h.activeOnce.filter _
  · rw [activeGroup, h.mem_rest, band]
    by_cases own : q = p <;> simp [own]
  · rw [activeGroup, distance]; exact h.activeOrder.filter _
  · rw [retiredGroup]
    exact placed.nodup_iff.mpr (List.nodup_cons.mpr ⟨fresh, h.retiredOnce⟩)
  · rw [retiredGroup, placed.mem_iff, List.mem_cons, h.retired, band]
    by_cases own : q = p <;> simp [own]
  · rw [retiredGroup, distance]
    exact s.placeByDistance_nonIncreasing p h.retiredOrder
  · rw [finishList]; exact h.finishedOnce
  · rw [finishList, h.finished, band]
    split
    · next own => rw [own, active]; simp
    · rfl
  · rw [finishList, clock]; exact h.times
  · rw [entryList]
    refine h.entries.congr fun q => ?_
    rw [State.entryPosition_eq_placeOf, place, State.entryPosition_eq_placeOf]
    split
    · next own => rw [own, Option.map_map]; rfl
    · rfl

/-- The retirement of a running car keeps the running order sound (R54). -/
theorem State.OrderSound.retire {s : State} {p : Port} (h : s.OrderSound)
    (after : s.race.phase.afterGreen = true) (active : s.bandOf p = some .active) (reason : Reason) :
    (s.retire p reason).OrderSound := by
  obtain ⟨t, gone, ends⟩ := State.retire_retired p reason s
  have moved := (h.groups after).retired_sound active gone
  rw [ends]
  exact moved.order.endTests false moved.after

/-! ### One car on its way (R71 to R81) -/

/-- The record of one car changes but for its entry position, and the car finishes at a time, if one is given:
its entry joins the finish list (R81). -/
structure State.Drives (p : Port) (finish : Option Nat) (s t : State) : Prop where
  rest : t = { s with
    cars := t.cars, ports := t.ports
    finishList := s.finishList ++ finish.toList.map fun time => ⟨p, time⟩ }
  others : s.OtherCars p t
  entry : (t.car p).map Car.entryPosition = (s.car p).map Car.entryPosition
  band : t.bandOf p = finish.elim (s.bandOf p) fun time => some (.finished time)

theorem State.Drives.refl (s : State) (p : Port) : s.Drives p none s :=
  ⟨by simp, fun _ _ => rfl, rfl, rfl⟩

/-- A movement short of the finish, and what follows it. -/
theorem State.Drives.trans {s t u : State} {p : Port} {finish : Option Nat} (h : s.Drives p none t)
    (k : t.Drives p finish u) : s.Drives p finish u where
  rest := by
    rw [k.rest, h.rest]
    simp
  others := fun q other => (k.others q other).trans (h.others q other)
  entry := k.entry.trans h.entry
  band := by rw [k.band, h.band]; rfl

/-- A movement, and what follows it without a finish. -/
theorem State.Drives.followed {s t u : State} {p : Port} {finish : Option Nat} (h : s.Drives p finish t)
    (k : t.Drives p none u) : s.Drives p finish u where
  rest := by
    rw [k.rest, h.rest]
    simp
  others := fun q other => (k.others q other).trans (h.others q other)
  entry := k.entry.trans h.entry
  band := k.band.trans h.band

theorem State.OnlyNotices.drives {s t : State} (h : s.OnlyNotices t) (p : Port) : s.Drives p none t where
  rest := by rw [h.rest]; simp
  others := fun q _ => h.car q
  entry := by rw [h.car]
  band := h.keepsOrder.bandOf p

/-- A change of the car's own record that leaves its band and its entry position. -/
theorem State.modifyCar_drives {s : State} {p : Port} {f : Car → Car}
    (same : ∀ c, s.car p = some c →
      (f c).standing.band = c.standing.band ∧ (f c).entryPosition = c.entryPosition) :
    s.Drives p none (s.modifyCar p f) where
  rest := by simp [State.modifyCar]
  others := fun _ other => State.modifyCar_car_ne _ _ other
  entry := by
    rw [State.modifyCar_car_self, Option.map_map]
    exact Option.map_congr fun c car => (same c car).2
  band := by
    simp only [State.bandOf, State.placeOf, State.modifyCar_car_self, Option.map_map]
    exact Option.map_congr fun c car => (same c car).1

/-- The finish of a car (R81). -/
theorem State.finishCar_drives {s : State} {p : Port} (now : Nat) (here : s.isRacePort p = true) :
    s.Drives p (some now) (s.finishCar p now) where
  rest := rfl
  others := fun q other => by
    unfold State.finishCar
    rw [State.notifyRace_car]
    exact State.modifyCar_car_ne _ _ other
  entry := by
    have own : (s.finishCar p now).car p = (s.modifyCar p fun c => { c with standing := .finished now }).car p :=
      rfl
    rw [own, State.modifyCar_car_self, Option.map_map]
    rfl
  band := by
    obtain ⟨c, car⟩ := Option.isSome_iff_exists.mp here
    have own : (s.finishCar p now).car p = some { c with standing := .finished now } := by
      show (s.modifyCar p fun c => { c with standing := .finished now }).car p = _
      rw [State.modifyCar_car_self, car]
      rfl
    exact State.bandOf_of own

/-! ### The movement and the crossings (R73 to R81) -/

theorem State.travelBack_drives (s : State) (p : Port) (course : Course) (delta : Int) :
    s.Drives p none (s.travelBack p course delta) := by
  unfold State.travelBack
  split
  · exact .refl s p
  · next c car =>
    have moved : s.Drives p none (s.modifyCar p fun _ => c.reverse (course.position c.floorGate) delta) :=
      State.modifyCar_drives fun d there => by
        obtain rfl := Option.some.inj (car.symm.trans there)
        exact ⟨rfl, rfl⟩
    dsimp only
    split
    · exact (moved.trans (State.modifyCar_drives (f := Car.markWrongWay) fun _ _ => ⟨rfl, rfl⟩)).trans
        ((State.notifyOwn_only _ _ _).drives p)
    · exact moved

theorem State.travelForward_drives (s : State) (p : Port) (course : Course) (delta : Int) :
    s.Drives p none (s.travelForward p course delta) := by
  cases car : s.car p with
  | none =>
    unfold State.travelForward
    rw [car]
    exact .refl s p
  | some c =>
    exact (State.modifyCar_drives (f := Car.forward (course.finish s.race.settings.laps) delta)
      fun _ _ => ⟨rfl, rfl⟩).trans ((State.travelForward_only (course := course) (delta := delta) car).drives p)

/-- A crossing moves the car on, and only the crossing of the chain's last gate finishes it (R78, R81). -/
theorem State.crossGate_drives {s : State} {p : Port} (now : Nat) (course : Course) (c : Car) (g : Gate)
    (here : s.isRacePort p = true) :
    s.Drives p none (s.crossGate p now course c g) ∨
      g = ⟨s.race.settings.laps + 1, 0⟩ ∧ s.Drives p (some now) (s.crossGate p now course c g) := by
  have floored : s.Drives p none (s.modifyCar p fun x =>
      { x with floorGate := g, nextGate := course.next s.race.settings.laps g }) :=
    State.modifyCar_drives fun _ _ => ⟨rfl, rfl⟩
  unfold State.crossGate
  dsimp only
  split
  · exact .inl floored
  · exact .inl (floored.trans ((State.notifyOwn_only _ _ _).drives p))
  · have lapped := (floored.trans (State.modifyCar_drives (f := Car.completeLap now)
      fun _ _ => ⟨rfl, rfl⟩)).trans
      ((State.notifyOwn_only p (.gate g now (some (now - c.lastLine))) _).drives p)
    split
    · next last =>
      refine .inr ⟨last, lapped.trans (State.finishCar_drives now ?_)⟩
      rw [State.isRacePort_eq_bandOf, lapped.band, ← here, State.isRacePort_eq_bandOf]
      rfl
    · exact .inl lapped

/-- After a crossing the next gate is the one that follows along the chain (R78). -/
theorem State.crossGate_nextGate (s : State) (p : Port) (now : Nat) (course : Course) (c : Car) (g : Gate) :
    ((s.crossGate p now course c g).car p).map Car.nextGate =
      (s.car p).map fun _ => course.next s.race.settings.laps g := by
  unfold State.crossGate
  dsimp only
  split
  · rw [State.modifyCar_car_self, Option.map_map]; rfl
  · rw [State.notifyOwn_car, State.modifyCar_car_self, Option.map_map]; rfl
  · split
    · unfold State.finishCar
      rw [State.notifyRace_car]
      refine (congrArg (Option.map Car.nextGate) (State.modifyCar_car_self _ p _)).trans ?_
      rw [State.notifyOwn_car, State.modifyCar_car_self, State.modifyCar_car_self, Option.map_map,
        Option.map_map, Option.map_map]
      rfl
    · rw [State.notifyOwn_car, State.modifyCar_car_self, State.modifyCar_car_self, Option.map_map,
        Option.map_map]
      rfl

/-- Without a next gate there is no crossing (R78). -/
theorem State.crossGates_done {s : State} {p : Port} {c : Car} (now : Nat) (course : Course) (turns : Nat)
    (car : s.car p = some c) (done : c.nextGate = none) : s.crossGates p now course turns = s := by
  cases turns with
  | zero => rfl
  | succ turns =>
    unfold State.crossGates
    rw [car]
    dsimp only
    rw [done]

/-- The crossings of a report move the car on and finish it at most once (R78, R81). -/
theorem State.crossGates_drives {p : Port} (now : Nat) (course : Course) (turns : Nat) {s : State}
    (here : s.isRacePort p = true) :
    ∃ finish : Option Nat, (finish = none ∨ finish = some now) ∧
      s.Drives p finish (s.crossGates p now course turns) := by
  have stays : ∃ finish : Option Nat, (finish = none ∨ finish = some now) ∧ s.Drives p finish s :=
    ⟨none, .inl rfl, .refl s p⟩
  induction turns generalizing s with
  | zero => exact stays
  | succ turns ih =>
    unfold State.crossGates
    split
    · exact stays
    · next c car =>
      split
      · exact stays
      · next g _ =>
        split
        · have next := s.crossGate_nextGate p now course c g
          rcases s.crossGate_drives now course c g here with first | ⟨last, finished⟩
          · have there : (s.crossGate p now course c g).isRacePort p = true := by
              rw [State.isRacePort_eq_bandOf, first.band, ← here, State.isRacePort_eq_bandOf]
              rfl
            obtain ⟨finish, either, later⟩ := ih there ⟨none, .inl rfl, .refl _ p⟩
            exact ⟨finish, either, first.trans later⟩
          · rw [car, last] at next
            obtain ⟨d, own, done⟩ := Option.map_eq_some_iff.mp next
            rw [State.crossGates_done now course turns (last ▸ own) (done.trans (if_pos rfl))]
            exact ⟨some now, .inr rfl, finished⟩
        · exact stays

/-- Steps 2 to 4 of the full application (R72 to R81). -/
theorem State.applyDelta_drives {s : State} {p : Port} (c : Car) (course : Course) (now : Nat) (carried : Int)
    (here : s.isRacePort p = true) :
    ∃ finish : Option Nat, (finish = none ∨ finish = some now) ∧
      s.Drives p finish (s.applyDelta p c course now carried) := by
  unfold State.applyDelta
  dsimp only
  generalize decide (c.allowance now < carried.natAbs) = cut
  have rated : s.Drives p none (s.modifyCar p (Car.markRate cut)) :=
    State.modifyCar_drives fun _ _ => ⟨rfl, rfl⟩
  split_ifs
  · exact ⟨none, .inl rfl, rated.trans (State.travelBack_drives _ p course _)⟩
  · have moved := rated.trans (State.travelForward_drives _ p course
      (limitDelta (c.allowance now) carried))
    obtain ⟨finish, either, crossed⟩ := State.crossGates_drives now course
      (course.chainLength s.race.settings.laps) (by
        rw [State.isRacePort_eq_bandOf, moved.band, ← here, State.isRacePort_eq_bandOf]
        rfl)
    exact ⟨finish, either, moved.trans crossed⟩
  · exact ⟨none, .inl rfl, rated.trans (State.modifyCar_drives (f := Car.stand) fun _ _ => ⟨rfl, rfl⟩)⟩

end Sys2Proof.Machine
end

section
/-! PROOF. The groups after a report (R82, R94, R97), and the running order under a whole REPORT. -/
namespace Sys2Proof.Machine

/-! ### The place of a car that has moved -/

theorem State.Drives.bandOf_ne {s t : State} {p q : Port} {finish : Option Nat} (d : s.Drives p finish t)
    (other : q ≠ p) : t.bandOf q = s.bandOf q := by
  rw [State.bandOf, State.placeOf, d.others q other]; rfl

theorem State.Drives.distance_ne {s t : State} {p q : Port} {finish : Option Nat} (d : s.Drives p finish t)
    (other : q ≠ p) : t.distance q = s.distance q := by
  rw [State.distance, d.others q other]; rfl

theorem State.Drives.placedIn {s t : State} {p : Port} {finish : Option Nat} {l : List Port}
    (d : s.Drives p finish t) (h : s.PlacedIn l) : t.PlacedIn l :=
  h.congr fun q => by
    by_cases own : q = p
    · rw [own, d.entry]
    · rw [d.others q own]

/-- A car that has moved without a finish is in the band it was in. -/
theorem State.Drives.bandOf {s t : State} {p : Port} (d : s.Drives p none t) (q : Port) :
    t.bandOf q = s.bandOf q := by
  by_cases own : q = p
  · rw [own]; exact d.band
  · exact d.bandOf_ne own

/-- A movement that leaves D leaves the running order (R82). -/
theorem State.Drives.keepsOrder {s t : State} {p : Port} (d : s.Drives p none t)
    (same : t.distance p = s.distance p) : s.KeepsOrder t where
  green := by rw [d.rest]
  entryList := by rw [d.rest]
  activeGroup := by rw [d.rest]
  retiredGroup := by rw [d.rest]
  finishList := by rw [d.rest]; simp
  clock := by rw [d.rest]
  places := fun q => by
    by_cases own : q = p
    · have band := d.band
      have entry := d.entry
      rw [own]
      unfold State.bandOf State.placeOf at band
      unfold State.distance at same
      unfold State.placeOf
      cases before : s.car p <;> cases after : t.car p <;> simp_all [Car.place]
    · rw [State.placeOf, d.others q own]; rfl

/-! ### Reinsertion and finish (R94, R97) -/

/-- A car whose D has changed is put back into the active group by its D (R94). -/
theorem State.GroupsSound.reinsert {s t : State} {p : Port} (h : s.GroupsSound)
    (active : s.bandOf p = some .active) (d : s.Drives p none t) : (t.reinsert p).GroupsSound := by
  obtain ⟨activeRest, retiredRest⟩ := h.rest_order active fun q other => d.distance_ne (t := t) other
  have group : (t.reinsert p).activeGroup =
      t.placeByDistance p (s.activeGroup.filter (fun q => q ≠ p)) := by
    show t.placeByDistance p (t.activeGroup.filter _) = _
    rw [d.rest]
  have retiredGroup : (t.reinsert p).retiredGroup = s.retiredGroup := by
    rw [State.reinsert_retiredGroup, d.rest]
  have finishList : (t.reinsert p).finishList = s.finishList := by
    rw [State.reinsert_finishList, d.rest]; simp
  have clock : (t.reinsert p).raceClock = s.raceClock := by rw [State.reinsert_raceClock, d.rest]
  have entryList : (t.reinsert p).entryList = s.entryList := by rw [State.reinsert_entryList, d.rest]
  have band : ∀ q : Port, (t.reinsert p).bandOf q = s.bandOf q := d.bandOf
  have placed := t.placeByDistance_perm p (s.activeGroup.filter (fun q => q ≠ p))
  refine ⟨by rw [State.reinsert_race, d.rest]; exact h.after, fun q => ?_, ?_, fun q => ?_, ?_, ?_, fun q => ?_,
    ?_, ?_, fun e => ?_, ?_, ?_⟩
  · rw [band]; exact h.started q
  · rw [group]
    exact placed.nodup_iff.mpr (List.nodup_cons.mpr ⟨by simp, h.activeOnce.filter _⟩)
  · rw [group, placed.mem_iff, List.mem_cons, h.mem_rest, band]
    by_cases own : q = p <;> simp [own, active]
  · rw [group]; exact t.placeByDistance_nonIncreasing p activeRest
  · rw [retiredGroup]; exact h.retiredOnce
  · rw [retiredGroup, band]; exact h.retired q
  · rw [retiredGroup]; exact retiredRest
  · rw [finishList]; exact h.finishedOnce
  · rw [finishList, band]; exact h.finished e
  · rw [finishList, clock]; exact h.times
  · rw [entryList]; exact d.placedIn h.entries

/-- The finish list with the entry of a car that finishes at the race clock (R103). -/
theorem State.GroupsSound.times_concat {s : State} (h : s.GroupsSound) (p : Port) :
    NonIncreasing ((s.finishList ++ [(⟨p, s.raceClock⟩ : FinishEntry)]).map FinishEntry.time).reverse ∧
      ∀ e ∈ s.finishList ++ [(⟨p, s.raceClock⟩ : FinishEntry)], e.time ≤ s.raceClock := by
  obtain ⟨ordered, past⟩ := h.times
  constructor
  · rw [List.map_append, List.reverse_append]
    refine List.pairwise_cons.mpr ⟨fun time member => ?_, ordered⟩
    obtain ⟨e, there, rfl⟩ := List.mem_map.mp (List.mem_reverse.mp member)
    exact past e there
  · intro e member
    rcases List.mem_append.mp member with there | last
    · exact past e there
    · rw [List.mem_singleton.mp last]

/-- A car that finishes leaves the active group for the end of the finish list (R97). -/
theorem State.GroupsSound.finishMove {s t : State} {p : Port} (h : s.GroupsSound)
    (active : s.bandOf p = some .active) (d : s.Drives p (some s.raceClock) t) :
    (t.finishMove p).GroupsSound := by
  obtain ⟨activeRest, retiredRest⟩ := h.rest_order active fun q other => d.distance_ne (t := t) other
  have group : (t.finishMove p).activeGroup = s.activeGroup.filter (fun q => q ≠ p) := by
    show t.activeGroup.filter _ = _
    rw [d.rest]
  have retiredGroup : (t.finishMove p).retiredGroup = s.retiredGroup := by
    rw [State.finishMove_retiredGroup, d.rest]
  have finishList : (t.finishMove p).finishList = s.finishList ++ [⟨p, s.raceClock⟩] := by
    rw [State.finishMove_finishList, d.rest]; rfl
  have clock : (t.finishMove p).raceClock = s.raceClock := by rw [State.finishMove_raceClock, d.rest]
  have entryList : (t.finishMove p).entryList = s.entryList := by rw [State.finishMove_entryList, d.rest]
  have own : (t.finishMove p).bandOf p = some (.finished s.raceClock) := d.band
  have others : ∀ q : Port, q ≠ p → (t.finishMove p).bandOf q = s.bandOf q := fun q other => d.bandOf_ne other
  refine ⟨by rw [State.finishMove_race, d.rest]; exact h.after, fun q => ?_, ?_, fun q => ?_, ?_, ?_, fun q => ?_,
    ?_, ?_, fun e => ?_, ?_, ?_⟩
  · by_cases e : q = p
    · rw [e, own]; simp
    · rw [others q e]; exact h.started q
  · rw [group]; exact h.activeOnce.filter _
  · rw [group, h.mem_rest]
    by_cases e : q = p
    · rw [e, own]; simp
    · simp [e, others q e]
  · rw [group]; exact activeRest
  · rw [retiredGroup]; exact h.retiredOnce
  · rw [retiredGroup, h.retired]
    by_cases e : q = p
    · rw [e, own, active]; simp
    · rw [others q e]
  · rw [retiredGroup]; exact retiredRest
  · rw [finishList, List.map_append]
    exact h.finishedOnce.append (List.nodup_singleton p) (by simpa using h.not_finished active)
  · rw [finishList, List.mem_append, List.mem_singleton, h.finished]
    obtain ⟨slot, time⟩ := e
    by_cases last : slot = p
    · rw [last, own, active]
      simp [eq_comm]
    · rw [others _ last]
      refine or_iff_left fun same => last ?_
      exact congrArg FinishEntry.slot same
  · rw [finishList, clock]; exact h.times_concat p
  · rw [entryList]; exact d.placedIn h.entries

/-! ### REPORT (R66 to R84) -/

theorem Standing.isFinished_iff_band (x : Standing) : x.isFinished = true ↔ ∃ time : Nat, x.band = .finished time := by
  cases x <;> simp [Standing.isFinished, Standing.band]

theorem Car.posed_place (r : Request) (c : Car) : (c.posed r).place = c.place := rfl

theorem State.storePose_keepsOrder (s : State) (p : Port) (r : Request) : s.KeepsOrder (s.storePose p r) := by
  rw [State.storePose_spec]
  exact State.modifyCar_keepsOrder fun c _ => c.posed_place r

/-- Step 5 of the full application puts the car that has moved into its place (R82). -/
theorem State.GroupsSound.bookReport {s t : State} {p : Port} {c : Car} {finish : Option Nat}
    (h : s.GroupsSound) (car : s.car p = some c) (active : s.bandOf p = some .active)
    (either : finish = none ∨ finish = some s.raceClock) (d : s.Drives p finish t) (order : List Port) :
    (t.bookReport p s.raceClock c.distance order).OrderSound := by
  obtain ⟨moved, own⟩ : ∃ moved : Car, t.car p = some moved := by
    have entry := d.entry
    rw [car] at entry
    obtain ⟨moved, own, -⟩ := Option.map_eq_some_iff.mp entry
    exact ⟨moved, own⟩
  have band := State.bandOf_of own
  have booked := d.followed (State.modifyCar_drives (p := p) (f := fun x => { x with
    lastReport := s.raceClock
    distanceChange := if x.distance = c.distance then x.distanceChange else s.raceClock })
    fun _ _ => ⟨rfl, rfl⟩)
  unfold State.bookReport
  rw [own]
  dsimp only
  rcases either with rfl | rfl
  · have runs : moved.standing.isFinished ≠ true := fun finished => by
      obtain ⟨time, here⟩ := (Standing.isFinished_iff_band _).mp finished
      rw [d.band, Option.elim_none, active, here] at band
      exact absurd band (by simp)
    rw [if_neg runs]
    split
    · next stood =>
      refine (booked.keepsOrder ?_).sound h.order
      refine (State.modifyCar_distance t p p (by exact fun _ => rfl)).trans ?_
      rw [State.distance, own, State.distance, car]
      exact stood
    · exact (State.notifyMove_only _ _).keepsOrder.sound (h.reinsert active booked).order
  · have finished : moved.standing.isFinished = true := by
      rw [Standing.isFinished_iff_band]
      exact ⟨s.raceClock, Option.some.inj (band.symm.trans d.band)⟩
    rw [if_pos finished]
    exact (State.notifyMove_only _ _).keepsOrder.sound (h.finishMove active booked).order

theorem State.bookReport_phase (s : State) (p : Port) (now before : Nat) (order : List Port) :
    (s.bookReport p now before order).race = s.race := by
  unfold State.bookReport
  dsimp only
  split
  · rfl
  · split_ifs <;> simp

/-- The full application of a REPORT for a RACING car keeps the running order sound. -/
theorem State.OrderSound.fullApplication {s : State} {p : Port} (h : s.OrderSound) (r : Request)
    (after : s.race.phase.afterGreen = true) (racing : s.carState p = .racing) :
    (s.fullApplication p r).OrderSound := by
  unfold State.fullApplication
  split
  · next c course car _ =>
    have active := State.bandOf_of_carState (.inl racing)
    obtain ⟨finish, either, moved⟩ := State.applyDelta_drives c course s.raceClock (reportDelta r.payload)
      (by rw [State.isRacePort, car]; rfl)
    have race : (s.applyDelta p c course s.raceClock (reportDelta r.payload)).race = s.race := by
      rw [moved.rest]
    have booked := (h.groups after).bookReport car active either moved s.runningOrder
    have posed := State.storePose_keepsOrder ((s.applyDelta p c course s.raceClock
      (reportDelta r.payload)).bookReport p s.raceClock c.distance s.runningOrder) p r
    have stored := posed.sound booked
    dsimp only
    split
    · exact stored.endTests true (by rw [posed.green, State.bookReport_phase, race]; exact after)
    · exact stored
  · exact h

theorem State.jumpStart_keepsOrder (s : State) (p : Port) : s.KeepsOrder (s.jumpStart p) := by
  unfold State.jumpStart
  split
  · exact .refl s
  · next c _ =>
    have marked : s.KeepsOrder (s.modifyCar p fun x =>
        { x with sticky := { x.sticky with jumpStart := true }
                 penalty := jumpPenalty s.race.settings.jumpStartPenalty c.penalty }) :=
      State.modifyCar_keepsOrder fun _ _ => rfl
    dsimp only
    split
    · exact marked
    · exact (State.notifyOwn_only _ _ _).keepsOrder_after marked

theorem State.countdownReport_keepsOrder (s : State) (p : Port) (r : Request) :
    s.KeepsOrder (s.countdownReport p r) := by
  unfold State.countdownReport
  split
  · exact (s.jumpStart_keepsOrder p).trans (State.storePose_keepsOrder _ p r)
  · exact s.storePose_keepsOrder p r

/-- What an accepted REPORT does keeps the running order sound (Table 4.3). -/
theorem State.OrderSound.applyReport {s : State} (h : s.OrderSound) (p : Port) (r : Request) :
    (s.applyReport p r).OrderSound := by
  unfold State.applyReport
  split
  · exact (s.countdownReport_keepsOrder p r).sound h
  · next green racing => exact h.fullApplication r (by rw [green]; rfl) racing
  · next finishing racing => exact h.fullApplication r (by rw [finishing]; rfl) racing
  · exact (s.storePose_keepsOrder p r).sound h
  · exact (s.storePose_keepsOrder p r).sound h
  · exact h

end Sys2Proof.Machine
end

section
/-! PROOF. Every command keeps the running order complete and in its order (R44, R92, R93, R95, R98, R103). -/
namespace Sys2Proof.Machine

/-- A sound race with a sound running order. -/
structure State.Ordered (s : State) : Prop where
  race : s.RaceSound
  order : s.OrderSound

/-! ### Presence (R131 to R139) -/

/-- A running car that coasts, or races again, keeps its place in the active group. -/
theorem State.changeRunning_keepsOrder {s : State} {p : Port} {x : Standing} (n : Notice)
    (active : s.bandOf p = some .active) (runs : x.running = true) :
    s.KeepsOrder ((s.modifyCar p fun c => { c with standing := x }).notifyRace n) := by
  refine (State.notifyRace_only _ _).keepsOrder_after (State.modifyCar_keepsOrder fun c car => ?_)
  rw [State.bandOf_of car, Option.some.injEq] at active
  rw [Car.place, Car.place, Standing.band_of_running runs, active]

theorem State.lateEffects_keepsOrder (s : State) (p : Port) (reason : Reason) :
    s.KeepsOrder (s.lateEffects p reason) := by
  unfold State.lateEffects
  split_ifs with running racing
  · exact State.changeRunning_keepsOrder _ (State.bandOf_of_carState (.inl racing)) rfl
  · exact .refl s
  · exact s.holdTest_keepsOrder
  · exact .refl s

theorem State.returnEffects_keepsOrder (s : State) (p : Port) : s.KeepsOrder (s.returnEffects p) := by
  unfold State.returnEffects
  split_ifs with running coasting
  · exact State.changeRunning_keepsOrder _ (State.bandOf_of_carState (.inr coasting)) rfl
  · exact .refl s
  · exact s.holdTest_keepsOrder
  · exact .refl s

theorem State.Ordered.lostEffects {s : State} (h : s.Ordered) (p : Port) : (s.lostEffects p).Ordered := by
  refine ⟨h.race.lostEffects p, ?_⟩
  unfold State.lostEffects
  cases phase : s.race.phase with
  | idle => exact h.order
  | forming | grid | countdown =>
    dsimp only
    split
    · exact ((h.order.entries h.race (by rw [phase]; rfl)).withdrawAndTest p _).order
    · exact h.order
  | green | finishing =>
    dsimp only
    split
    · next coasting => exact h.order.retire (by rw [phase]; rfl) (State.bandOf_of_carState (.inr coasting)) _
    · exact h.order
  | results =>
    dsimp only
    split
    · exact h.order.release p
    · exact h.order

/-- The race and its running order are sound whatever happens on the links. -/
theorem State.ordered_keptByPorts : State.KeptByPorts State.Ordered where
  same := fun same h => ⟨same.sameStandings.sound h.race, same.keepsOrder.sound h.order⟩
  late := fun p reason h => ⟨h.race.lateEffects p reason, (State.lateEffects_keepsOrder _ p reason).sound h.order⟩
  returned := fun p h => ⟨h.race.returnEffects p, (State.returnEffects_keepsOrder _ p).sound h.order⟩

theorem State.Ordered.silenceSecondStageExpiry {s : State} (h : s.Ordered) (p : Port) :
    (s.silenceSecondStageExpiry p).Ordered := by
  unfold State.silenceSecondStageExpiry
  split
  · exact (State.ordered_keptByPorts.modifyPort h p _).lostEffects p
  · exact h

/-! ### The expiries of the Race Control Unit -/

theorem State.Ordered.entryWindowExpiry {s : State} (h : s.Ordered) : s.entryWindowExpiry.Ordered := by
  refine ⟨h.race.entryWindowExpiry, ?_⟩
  unfold State.entryWindowExpiry
  split
  · next due =>
    split
    · exact (State.enterGrid_keepsOrder (by rw [State.entryWindowDue_forming due]; rfl)).sound h.order
    · exact (s.returnToIdle_entries _).order
  · exact h.order

theorem State.Ordered.gridWaitExpiry {s : State} (h : s.Ordered) : s.gridWaitExpiry.Ordered := by
  refine ⟨h.race.gridWaitExpiry, ?_⟩
  unfold State.gridWaitExpiry
  split
  · next due =>
    have left := (h.order.entries h.race (by rw [due.1]; rfl)).withdrawEach .readyMissed s.enteredPorts
    dsimp only
    split
    · exact (State.returnToIdle_entries _ _).order
    · exact ((State.enterCountdown_keepsOrder left.before).entries left).order
  · exact h.order

theorem State.Ordered.countdownExpiry {s : State} (h : s.Ordered) : s.countdownExpiry.Ordered := by
  refine ⟨h.race.countdownExpiry, ?_⟩
  unfold State.countdownExpiry
  split
  · next due => exact ((h.order.entries h.race (by rw [due.1]; rfl)).enterGreen h.race due.1).order
  · exact h.order

theorem State.Ordered.closingWindowExpiry {s : State} (h : s.Ordered) : s.closingWindowExpiry.Ordered := by
  refine ⟨h.race.closingWindowExpiry, ?_⟩
  unfold State.closingWindowExpiry
  split
  · next due => exact h.order.enterResults _ (by rw [due.1]; rfl)
  · exact h.order

theorem State.Ordered.resultsHoldExpiry {s : State} (h : s.Ordered) : s.resultsHoldExpiry.Ordered := by
  refine ⟨h.race.resultsHoldExpiry, ?_⟩
  unfold State.resultsHoldExpiry
  split
  · exact (s.returnToIdle_entries _).order
  · exact h.order

theorem State.Ordered.voteExpiry {s : State} (h : s.Ordered) (p : Port) : (s.voteExpiry p).Ordered :=
  ⟨h.race.voteExpiry p, (s.voteExpiry_keepsOrder p).sound h.order⟩

/-! ### The tick (R17, R31, R35) -/

/-- What each port's expiry keeps, the expiries of all ports keep. -/
theorem State.Ordered.foldl {expiry : State → Port → State} {s : State} (h : s.Ordered)
    (keeps : ∀ u p, u.Ordered → (expiry u p).Ordered) (ports : List Port) : (ports.foldl expiry s).Ordered :=
  List.foldlRecOn ports expiry h fun u sound p _ => keeps u p sound

theorem State.Ordered.takeDue {s : State} (h : s.Ordered) : s.takeDue.Ordered := by
  have k := State.ordered_keptByPorts
  have timers := h.entryWindowExpiry.gridWaitExpiry.countdownExpiry.closingWindowExpiry.resultsHoldExpiry
  have votes := timers.foldl (fun _ p sound => sound.voteExpiry p) allPorts
  have first := votes.foldl (fun _ p sound => k.silenceFirstStageExpiry sound p) allPorts
  have second := first.foldl (fun _ p sound => sound.silenceSecondStageExpiry p) allPorts
  exact second.foldl (fun _ p sound => k.pushTimerExpiry sound p) allPorts

/-- A tick moves no car; the race clock only advances. -/
theorem State.countTick_keepsOrder (s : State) : s.KeepsOrder s.countTick where
  green := rfl
  entryList := rfl
  activeGroup := rfl
  retiredGroup := rfl
  finishList := rfl
  clock := by
    show s.raceClock ≤ if s.race.phase.running then s.raceClock + 1 else s.raceClock
    split <;> omega
  places := fun _ => rfl

theorem State.Ordered.countTick {s : State} (h : s.Ordered) : s.countTick.Ordered :=
  ⟨h.race.countTick, s.countTick_keepsOrder.sound h.order⟩

theorem State.Ordered.limitTick {s : State} (h : s.Ordered) (limit : s.atLimit = true) :
    s.limitTick.Ordered :=
  ⟨h.race.limitTick limit, h.countTick.order.enterResults _
    (Phase.afterGreen_of_running (Bool.and_eq_true_iff.mp limit).1)⟩

theorem State.Ordered.tick {s : State} (h : s.Ordered) : s.tick.Ordered := by
  unfold State.tick
  split
  · next limit => exact h.takeDue.limitTick limit
  · exact h.takeDue.countTick

/-! ### The requests of FORMING (R5, R19 to R25, R46 to R49) -/

/-- The opener's car enters an empty list (R21). -/
theorem State.Ordered.openRace {s : State} (h : s.Ordered) (idle : s.race.phase = .idle) (p : Port) :
    (s.openRace p).OrderSound := by
  have before : s.race.phase.afterGreen = false := by rw [idle]; rfl
  have opened : s.KeepsOrder (s.opened p) := ⟨before.symm, rfl, rfl, rfl, rfl, le_refl _, fun _ => rfl⟩
  have out : (s.opened p).isRacePort p = false := by
    rw [opened.isRacePort, State.isRacePort_eq, h.race.legal.standingOf_idle idle p]
    rfl
  have entered := (opened.entries (h.order.entries h.race before)).appendEntry out
  rw [State.openRace_eq]
  exact ((State.notifyPhase_only _ _).keepsOrder.trans (State.notifyRace_only _ _).keepsOrder).sound
    entered.order

theorem performOpenRace_ordered (p : Port) (r : Request) {s : State} (h : s.Ordered) :
    (performOpenRace p r s).1.Ordered := by
  refine ⟨performOpenRace_raceSound p r h.race, ?_⟩
  unfold performOpenRace
  split_ifs with fenced running
  · exact h.order
  · exact h.order
  · exact h.openRace (not_not.mp running) p

theorem performSetRules_ordered (p : Port) (r : Request) {s : State} (h : s.Ordered) :
    (performSetRules p r s).1.Ordered := by
  refine ⟨performSetRules_raceSound p r h.race, ?_⟩
  unfold performSetRules
  split
  · exact h.order
  · dsimp only
    exact (State.modifyRace_keepsOrder rfl).sound h.order

theorem performLoadCourse_ordered (p : Port) (r : Request) {s : State} (h : s.Ordered) :
    (performLoadCourse p r s).1.Ordered := by
  refine ⟨performLoadCourse_raceSound p r h.race, ?_⟩
  unfold performLoadCourse
  split_ifs with fenced idle locked opener
  · exact h.order
  · exact h.order
  · exact h.order
  · exact h.order
  · split
    · exact h.order
    · next c _ =>
      have loaded : s.KeepsOrder { s with course := some c } :=
        ⟨rfl, rfl, rfl, rfl, rfl, le_refl _, fun _ => rfl⟩
      have before : s.race.phase.afterGreen = false := by
        rw [Phase.forming_of_unlocked idle locked]; rfl
      have entries := loaded.entries (h.order.entries h.race before)
      unfold State.loadCourse
      dsimp only
      split
      · exact entries.order
      · exact (entries.withdrawEach _ _).order

theorem performEnter_ordered (p : Port) (r : Request) {s : State} (h : s.Ordered) :
    (performEnter p r s).1.Ordered := by
  refine ⟨performEnter_raceSound p r h.race, ?_⟩
  unfold performEnter
  split_ifs with fenced idle forming entered
  · exact h.order
  · exact h.order
  · exact h.order
  · exact h.order
  · split
    · exact h.order
    · split
      · exact h.order
      · have entries := h.order.entries h.race (by rw [not_not.mp forming]; rfl)
        exact (State.notifyRace_only _ _).keepsOrder.sound
          (entries.appendEntry (by simpa using entered)).order

theorem performCarSetup_ordered (p : Port) (r : Request) {s : State} (h : s.Ordered) :
    (performCarSetup p r s).1.Ordered := by
  have changed : s.KeepsOrder (s.modifyCar p (Car.setup r.payload)) :=
    State.modifyCar_keepsOrder fun _ _ => rfl
  refine ⟨performCarSetup_raceSound p r h.race, ?_⟩
  unfold performCarSetup
  split
  · exact h.order
  split
  · exact h.order
  split
  · exact h.order
  · split_ifs
    · exact h.order
    · exact h.order
    · exact h.order
    · exact changed.sound h.order
    · exact ((State.notifyRace_only _ _).keepsOrder_after changed).sound h.order

theorem performCloseEntries_ordered (p : Port) (r : Request) {s : State} (h : s.Ordered) :
    (performCloseEntries p r s).1.Ordered := by
  refine ⟨performCloseEntries_raceSound p r h.race, ?_⟩
  unfold performCloseEntries
  split_ifs with fenced idle forming opener loaded
  · exact h.order
  · exact h.order
  · exact h.order
  · exact h.order
  · exact h.order
  · exact (State.enterGrid_keepsOrder (by rw [not_not.mp forming]; rfl)).sound h.order

/-! ### READY and LEAVE (R50, R51) -/

/-- On the grid a car that becomes READY keeps its place in the entry list (R50). -/
theorem State.Ordered.declareReady {s : State} (h : s.Ordered) (grid : s.race.phase = .grid) (p : Port) :
    (s.declareReady p).OrderSound := by
  have before : s.race.phase.afterGreen = false := by rw [grid]; rfl
  have ready : s.KeepsOrder ((s.modifyCar p fun c => { c with standing := .ready }).notifyRace
      (.carState p .ready .none)) := by
    refine (State.notifyRace_only _ _).keepsOrder_after (State.modifyCar_keepsOrder fun c car => ?_)
    have allowed := h.race.standings p c car
    rw [grid] at allowed
    rw [Car.place, Car.place]
    cases standing : c.standing <;> simp_all [Phase.allows, Standing.band]
  unfold State.declareReady
  dsimp only
  split
  · refine (ready.trans (State.enterCountdown_keepsOrder ?_)).sound h.order
    rw [ready.green, before]
  · exact ready.sound h.order

theorem performReady_ordered (p : Port) (r : Request) {s : State} (h : s.Ordered) :
    (performReady p r s).1.Ordered := by
  refine ⟨performReady_raceSound p r h.race, ?_⟩
  unfold performReady
  split
  · exact h.order
  split
  · exact h.order
  split
  · exact h.order
  · split_ifs with grid ready
    · exact h.order
    · exact h.order
    · exact h.declareReady (not_not.mp grid) p

/-- From the green on a car that is neither FINISHED nor RETIRED is in the active group (R93). -/
theorem State.GroupsSound.active_of_car {s : State} {p : Port} {c : Car} (h : s.GroupsSound)
    (car : s.car p = some c) (runs : ¬(c.standing.isFinished || c.standing.isRetired) = true) :
    s.bandOf p = some .active := by
  have started := h.started p
  rw [State.bandOf_of car] at started ⊢
  cases standing : c.standing <;> simp_all [Standing.band, Standing.isFinished, Standing.isRetired]

theorem performLeave_ordered (p : Port) (r : Request) {s : State} (h : s.Ordered) :
    (performLeave p r s).1.Ordered := by
  refine ⟨performLeave_raceSound p r h.race, ?_⟩
  unfold performLeave
  split
  · exact h.order
  · cases phase : s.race.phase with
    | idle => exact h.order
    | forming | grid | countdown =>
      dsimp only
      split
      · exact ((h.order.entries h.race (by rw [phase]; rfl)).withdrawAndTest p _).order
      · exact h.order
    | green | finishing =>
      have after : s.race.phase.afterGreen = true := by rw [phase]; rfl
      dsimp only
      split
      · exact h.order
      · next c car =>
        split
        · exact h.order
        · next runs => exact h.order.retire after ((h.order.groups after).active_of_car car runs) _
    | results =>
      dsimp only
      split
      · exact h.order.release p
      · exact h.order

/-! ### Reports and votes (R66, R88, R122 to R124) -/

theorem performReport_ordered (p : Port) (r : Request) {s : State} (h : s.Ordered) :
    (performReport p r s).1.Ordered := by
  refine ⟨performReport_raceSound p r h.race, ?_⟩
  unfold performReport
  split
  · exact h.order
  split
  · exact h.order
  split
  · exact h.order
  · split_ifs
    · exact h.order
    · exact h.order
    · exact h.order.applyReport p r

theorem performClearFlags_ordered (p : Port) (r : Request) {s : State} (h : s.Ordered) :
    (performClearFlags p r s).1.Ordered := by
  refine ⟨performClearFlags_raceSound p r h.race, ?_⟩
  unfold performClearFlags
  split
  · exact h.order
  split
  · exact h.order
  split
  · exact h.order
  · split_ifs
    · exact h.order
    · exact (State.modifyCar_keepsOrder (by exact fun _ _ => rfl)).sound h.order

theorem performAbortVote_ordered (p : Port) (r : Request) {s : State} (h : s.Ordered) :
    (performAbortVote p r s).1.Ordered := by
  have cast := s.castVote_keepsOrder p
  refine ⟨performAbortVote_raceSound p r h.race, ?_⟩
  unfold performAbortVote
  split
  · exact h.order
  split
  · exact h.order
  split
  · exact h.order
  · split_ifs with waits retired
    · exact h.order
    · exact h.order
    · dsimp only
      split
      · exact (cast.sound h.order).enterResults _
          (by rw [cast.green]; exact Phase.afterGreen_of_running (by simpa using waits))
      · exact cast.sound h.order

theorem performWithdrawVote_ordered (p : Port) (r : Request) {s : State} (h : s.Ordered) :
    (performWithdrawVote p r s).1.Ordered := by
  refine ⟨performWithdrawVote_raceSound p r h.race, ?_⟩
  unfold performWithdrawVote State.removeVote
  split_ifs
  · exact h.order
  · exact h.order
  · exact h.order
  · exact h.order
  · exact ((s.dropVote_keepsOrder p).trans (State.notifyVotes_only _).keepsOrder).sound h.order
  · exact h.order

/-! ### Every command -/

/-- The running order is empty after a hardware reset (R182). -/
theorem State.reset_orderSound : State.reset.OrderSound := by
  have empty : ∀ p : Port, State.reset.car p = none := fun p => by simp [State.car, State.reset]
  refine State.EntriesSound.order ⟨rfl, ⟨rfl, rfl, rfl⟩, ⟨List.nodup_nil, fun q c car => ?_⟩, fun q => ?_⟩
  · rw [empty] at car
    exact absurd car (by simp)
  · rw [State.isRacePort, empty]
    simp [State.reset]

/-- Every command keeps the race and its running order sound. -/
theorem exec_ordered (command : Instr) {s : State} (h : s.Ordered) :
    ∃ t : State, exec command s = .next t ∧ t.Ordered := by
  have k := State.ordered_keptByPorts
  cases command with
  | openRace p => exact ⟨_, rfl, k.grant h fun r _ => performOpenRace_ordered p r⟩
  | setRules p =>
    have done := k.grant (p := p) (kind := .setRules) h fun r _ => performSetRules_ordered p r
    refine ⟨_, rfl, ?_⟩
    split
    · exact h
    · split
      · exact done.entryWindowExpiry
      · exact done
  | loadCourse p => exact ⟨_, rfl, k.grant h fun r _ => performLoadCourse_ordered p r⟩
  | enter p => exact ⟨_, rfl, k.grant h fun r _ => performEnter_ordered p r⟩
  | carSetup p =>
    refine ⟨_, rfl, ?_⟩
    split
    · exact h
    · exact k.reportReserved (k.grant h fun r _ => performCarSetup_ordered p r) p _
  | closeEntries p => exact ⟨_, rfl, k.grant h fun r _ => performCloseEntries_ordered p r⟩
  | ready p => exact ⟨_, rfl, k.grant h fun r _ => performReady_ordered p r⟩
  | leave p => exact ⟨_, rfl, k.grant h fun r _ => performLeave_ordered p r⟩
  | report p => exact ⟨_, rfl, k.grant h fun r _ => performReport_ordered p r⟩
  | clearFlags p => exact ⟨_, rfl, k.grant h fun r _ => performClearFlags_ordered p r⟩
  | snapshot p => exact ⟨_, rfl, k.grant h fun r u sound => by rw [performSnapshot_state]; exact sound⟩
  | readLaps p => exact ⟨_, rfl, k.grant h fun r u sound => by rw [performReadLaps_state]; exact sound⟩
  | readResults p =>
    exact ⟨_, rfl, k.grant h fun r u sound => by rw [performReadResults_state]; exact sound⟩
  | abortVote p => exact ⟨_, rfl, k.grant h fun r _ => performAbortVote_ordered p r⟩
  | withdrawVote p => exact ⟨_, rfl, k.grant h fun r _ => performWithdrawVote_ordered p r⟩
  | identify p => exact ⟨_, rfl, k.answerIdentify h p⟩
  | nop p => exact ⟨_, rfl, k.answerNop h p⟩
  | setPush p => exact ⟨_, rfl, k.answerSetPush h p⟩
  | clearErrors p => exact ⟨_, rfl, k.answerClearErrors h p⟩
  | unknownFrameAnswer p => exact ⟨_, rfl, k.answerUnknown h p⟩
  | validFrame p kind payload =>
    refine ⟨_, rfl, ?_⟩
    split
    · exact k.validFrame h p kind payload
    · exact k.badLengthFrame h p
  | badCheckFrame p => exact ⟨_, rfl, k.badCheckFrame h p⟩
  | badLengthFrame p => exact ⟨_, rfl, k.badLengthFrame h p⟩
  | resynchronisingCandidateDiscard p => exact ⟨_, rfl, h⟩
  | lossOfSignal p => exact ⟨_, rfl, k.lossOfSignal h p⟩
  | hardwareReset =>
    exact ⟨_, rfl, k.same (State.reset.setPending_sameRace s.pending)
      ⟨State.reset_raceSound, State.reset_orderSound⟩⟩
  | entryWindowExpiry => exact ⟨_, rfl, h.entryWindowExpiry⟩
  | gridWaitExpiry => exact ⟨_, rfl, h.gridWaitExpiry⟩
  | countdownExpiry => exact ⟨_, rfl, h.countdownExpiry⟩
  | closingWindowExpiry => exact ⟨_, rfl, h.closingWindowExpiry⟩
  | raceLimit =>
    refine ⟨_, rfl, ?_⟩
    split
    · next limit => exact h.takeDue.limitTick limit
    · exact h
  | resultsHoldExpiry => exact ⟨_, rfl, h.resultsHoldExpiry⟩
  | voteExpiry p => exact ⟨_, rfl, h.voteExpiry p⟩
  | silenceFirstStageExpiry p => exact ⟨_, rfl, k.silenceFirstStageExpiry h p⟩
  | silenceSecondStageExpiry p => exact ⟨_, rfl, h.silenceSecondStageExpiry p⟩
  | pushTimerExpiry p => exact ⟨_, rfl, k.pushTimerExpiry h p⟩
  | transmitTake p => exact ⟨_, rfl, k.modifyPort h p _⟩
  | tick => exact ⟨_, rfl, h.tick⟩

/-- Settles O8: the command at the front of the queue keeps the running order sound, and so does an idle
step. -/
theorem stepKeepsOrderSound : Obligations.StepKeepsOrderSound := by
  intro s t race order stepped
  unfold step at stepped
  split at stepped
  · obtain rfl := Host.Outcome.next.inj stepped
    exact order
  · next command rest _ =>
    obtain ⟨u, performed, sound⟩ := exec_ordered command
      (State.ordered_keptByPorts.same (s.setPending_sameRace rest) ⟨race, order⟩)
    obtain rfl := Host.Outcome.next.inj (performed.symm.trans stepped)
    exact sound.order

end Sys2Proof.Machine
end

section
/-! PROOF. ENTER, CAR_SETUP and READY, between the two ends of their grants (R47, R49, R50). -/
namespace Sys2Proof.Machine

/-! ### Grants whose performance tells of what it did (R61) -/

/-- A grant whose performance does no more to the ports than offer them notices, and does not return to
IDLE. -/
theorem State.grantFrame_of_notices {s v : State} {p : Port} {k : RequestKind} {r : Request}
    {perform : Request → State → State × Response} {response : Response} (granted : s.granted p k = some r)
    (done : perform r (s.requestTaken p) = (v, response))
    (told : ∀ q : Port, ((s.requestTaken p).port q).SameButNotices (v.port q))
    (stays : v.race.phase = .idle → s.race.phase = .idle) (ticks : v.tickCount = s.tickCount)
    (commands : v.pending = s.pending) : s.GrantFrame p response (v.responsePlaced p response) := by
  rw [← State.grant_ends granted done]
  refine State.grant_frame granted done (fun q => (told q).andPush) (fun _ q => ?_)
    (fun started ended => absurd (stays ended) started) ticks commands
  rw [told q]
  exact s.requestTaken_pushTimer p q

theorem State.requestTaken_isRacePort (s : State) (p q : Port) :
    (s.requestTaken p).isRacePort q = s.isRacePort q := rfl

/-! ### ENTER (R46, R47) -/

theorem performEnter_accepted {s : State} {p : Port} {r : Request} {c : Course}
    (free : (s.port p).fenced = false) (forming : s.race.phase = .forming) (out : s.car p = none)
    (loaded : s.course = some c) (known : c.checkValue = enterCheck r.payload) :
    performEnter p r s = (s.enterCar p, .enter s.race.number (s.entryList.length + 1)) := by
  have position : (s.enterCar p).entryPosition p = s.entryList.length + 1 := by
    simp [State.entryPosition, State.enterCar, State.car, State.appendEntry, Car.entry]
  unfold performEnter
  rw [if_neg (by simp [free]), if_neg (by simp [forming]), if_neg (not_not_intro forming),
    if_neg (by simp [State.isRacePort, out]), loaded]
  dsimp only
  rw [if_neg (not_not_intro known), position]
  rfl

/-- A car that enters is appended, and its entry is told to the race ports, its own among them (R47). -/
theorem State.enterCar_told (s : State) (p : Port) :
    (s.appendEntry p).Told (fun q => noticeIf (s.isRacePort q || decide (q = p))
      (.entry p .entered .none (s.entryList.length + 1))) (s.enterCar p) := by
  have position : (s.appendEntry p).entryPosition p = s.entryList.length + 1 := by
    simp [State.entryPosition, State.car, State.appendEntry, Car.entry]
  unfold State.enterCar
  dsimp only
  rw [position]
  refine (State.notifyRace_told _ _).congr fun q => ?_
  rw [State.appendEntry_isRacePort, Bool.or_comm]

/-- Settles O17: the entry of the car between the two ends of its grant. -/
theorem enterAppendsTheCar : Obligations.EnterAppendsTheCar := by
  intro s p r c granted free forming out loaded known
  let v := s.requestTaken p
  have done : performEnter p r v = (v.enterCar p, .enter s.race.number (s.entryList.length + 1)) :=
    performEnter_accepted ((s.requestTaken_fenced p p).trans free) forming out loaded known
  have told := v.enterCar_told p
  have cars : (v.enterCar p).cars = s.cars.set p (some (Car.entry (s.entryList.length + 1))) := by
    rw [told.rest]; rfl
  have runs : exec (.enter p) s = .next ((v.enterCar p).responsePlaced p
      (.enter s.race.number (s.entryList.length + 1))) := congrArg _ (State.grant_ends granted done)
  refine ⟨_, runs, ?_, ?_, fun q other => ?_, ?_, fun q => ?_⟩
  · have rest := told.rest
    show State.responsePlaced p _ (v.enterCar p) = _
    generalize v.enterCar p = u at rest
    rw [rest]
    rfl
  · show (v.enterCar p).cars.get p = _
    rw [cars, Bank.get_set_self]
  · show (v.enterCar p).cars.get q = _
    rw [cars, Bank.get_set_ne _ _ other]
    rfl
  · refine State.grantFrame_of_notices granted done (fun q => ?_) (fun idle => ?_) rfl rfl
    · rw [told.ports]
      exact PortState.offerAll_same _ _
    · rw [told.race] at idle
      exact idle
  · rw [PortState.offerIf_eq_offerAll]
    exact State.grant_sameNotices _ (told.ports q) (s.requestTaken_link p q) (s.requestTaken_sameNotices p q)

/-! ### CAR_SETUP (R48, R49) -/

/-- The mask selects a field where one of its three bits is set. -/
theorem setupMaskEmpty_eq (payload : List Byte) : (!setupMaskEmpty payload) =
    decide ((byteAt payload 0).testBit 0 = true ∨ (byteAt payload 0).testBit 1 = true ∨
      (byteAt payload 0).testBit 2 = true) := by
  unfold setupMaskEmpty setupMask
  cases (byteAt payload 0).testBit 0 <;> cases (byteAt payload 0).testBit 1 <;>
    cases (byteAt payload 0).testBit 2 <;> rfl

/-- A car with its setup changed, and the notice of it unless the mask is empty (R49). -/
def State.setupCar (p : Port) (payload : List Byte) (position : Nat) (s : State) : State :=
  if setupMaskEmpty payload then s.modifyCar p (Car.setup payload)
  else (s.modifyCar p (Car.setup payload)).notifyRace (.entry p .setupChanged .none position)

theorem State.setupCar_told (s : State) (p : Port) (payload : List Byte) (position : Nat) :
    (s.modifyCar p (Car.setup payload)).Told
      (fun q => noticeIf (s.isRacePort q && !setupMaskEmpty payload) (.entry p .setupChanged .none position))
      (s.setupCar p payload position) := by
  unfold State.setupCar
  split
  · next empty =>
    refine (State.Told.refl _).congr fun q => ?_
    rw [empty]
    simp [noticeIf]
  · next selects =>
    refine (State.notifyRace_told _ _).congr fun q => ?_
    rw [State.modifyCar_isRacePort]
    simp [selects]

theorem performCarSetup_accepted {s : State} {p : Port} {r : Request} {c : Car}
    (free : (s.port p).fenced = false) (phase : s.race.phase = .forming ∨ s.race.phase = .grid)
    (car : s.car p = some c) (entered : c.standing = .entered) (inRange : setupInRange r.payload = true) :
    performCarSetup p r s = (s.setupCar p r.payload c.entryPosition,
      .carSetup (c.setup r.payload).carClass (c.setup r.payload).tag (c.setup r.payload).rateLimit) := by
  have started : s.race.phase ≠ .idle := by rcases phase with h | h <;> rw [h] <;> decide
  unfold performCarSetup
  rw [if_neg (by simp [free]), if_neg started, car]
  dsimp only
  rw [if_neg (by rw [entered]; decide), if_neg fun other => phase.elim other.1 other.2,
    if_neg (by simp [inRange])]
  rfl

/-- Settles O18: the setup of the car between the two ends of its grant, with no reserved byte to report. -/
theorem carSetupAppliesMaskedFields : Obligations.CarSetupAppliesMaskedFields := by
  intro s p r c granted free phase car entered inRange reserved
  let v := s.requestTaken p
  have done : performCarSetup p r v = (v.setupCar p r.payload c.entryPosition,
      .carSetup (c.setup r.payload).carClass (c.setup r.payload).tag (c.setup r.payload).rateLimit) :=
    performCarSetup_accepted ((s.requestTaken_fenced p p).trans free) phase car entered inRange
  have told := v.setupCar_told p r.payload c.entryPosition
  have runs : exec (.carSetup p) s = .next ((v.setupCar p r.payload c.entryPosition).responsePlaced p
      (.carSetup (c.setup r.payload).carClass (c.setup r.payload).tag (c.setup r.payload).rateLimit)) := by
    obtain ⟨kind, -⟩ := State.granted_spec granted
    show Host.Outcome.next _ = _
    rw [granted]
    dsimp only
    rw [State.grant_ends granted done, State.reportReserved_zero]
    rw [kind]
    simp [RequestKind.reservedNonzero, reserved]
  refine ⟨_, c.setup r.payload, runs, ?_, ?_, fun q other => ?_, rfl, rfl, rfl, rfl, ?_, fun q => ?_⟩
  · have rest := told.rest
    show State.responsePlaced p _ (v.setupCar p r.payload c.entryPosition) = _
    generalize v.setupCar p r.payload c.entryPosition = u at rest
    rw [rest]
    rfl
  · refine (told.car p).trans ?_
    rw [State.modifyCar_car_self]
    exact congrArg (Option.map (Car.setup r.payload)) car
  · refine (told.car q).trans ?_
    rw [State.modifyCar_car_ne _ _ other]
    rfl
  · refine State.grantFrame_of_notices granted done (fun q => ?_) (fun idle => ?_) ?_ ?_
    · rw [told.ports]
      exact PortState.offerAll_same _ _
    · rw [told.race] at idle
      exact idle
    · rw [told.rest]; rfl
    · rw [told.rest]; rfl
  · rw [PortState.offerIf_eq_offerAll, ← setupMaskEmpty_eq]
    exact State.grant_sameNotices _ (told.ports q) (s.requestTaken_link p q) (s.requestTaken_sameNotices p q)

/-! ### READY (R50) -/

/-- The car of port `p` READY, and the race ports told of it (R50). -/
def State.readied (p : Port) (s : State) : State :=
  (s.modifyCar p fun c => { c with standing := .ready }).notifyRace (.carState p .ready .none)

/-- The race enters COUNTDOWN with the last READY (R27). -/
theorem State.declareReady_eq (p : Port) (s : State) :
    s.declareReady p = if (s.readied p).allReady then (s.readied p).enterCountdown else s.readied p := rfl

theorem State.readied_carState_ne {s : State} {p q : Port} (other : q ≠ p) :
    (s.readied p).car q = s.car q := by
  unfold State.readied
  rw [State.notifyRace_car, State.modifyCar_car_ne _ _ other]

/-- Once a car is READY the test for all is a test of the others (R27). -/
theorem State.readied_allReady_iff {s : State} {p : Port} {c : Car} (car : s.car p = some c) :
    (s.readied p).allReady = true ↔ ∀ q : Port, q ≠ p → s.car q ≠ none → s.carState q = .ready := by
  have own : (s.readied p).car p = some { c with standing := .ready } := by
    unfold State.readied
    rw [State.notifyRace_car, State.modifyCar_car_self, car]
    rfl
  have state : ∀ q : Port, q ≠ p → (s.readied p).carState q = s.carState q := fun q other => by
    rw [State.carState, State.readied_carState_ne other, State.carState]
  rw [State.allReady_iff, and_iff_right ⟨p, by rw [own]; simp⟩]
  refine forall_congr' fun q => ?_
  by_cases e : q = p
  · rw [e, State.carState_of own]
    simp [Standing.state]
  · rw [state q e, State.readied_carState_ne e]
    simp [e]

/-- READY changes the car, the race record where the countdown starts, and besides only raises notices. -/
theorem State.declareReady_frame (s : State) (p : Port) :
    s.declareReady p = { s with
      cars := (s.readied p).cars, race := (s.declareReady p).race, ports := (s.declareReady p).ports } ∧
    (∀ q : Port, (s.port q).SameButNotices ((s.declareReady p).port q)) ∧
    ((s.declareReady p).race.phase = .idle → s.race.phase = .idle) := by
  have first := State.notifyRace_only (.carState p .ready .none)
    (s.modifyCar p fun c => { c with standing := .ready })
  rw [State.declareReady_eq]
  split
  · have second := (s.readied p).enterCountdown_only
    refine ⟨?_, fun q => (first.ports q).trans (second.ports q), fun idle => ?_⟩
    · rw [second.race]
      exact second.rest
    · rw [second.race] at idle
      exact absurd idle (by simp)
  · exact ⟨rfl, first.ports, id⟩

theorem performReady_accepted {s : State} {p : Port} {r : Request} {c : Car}
    (free : (s.port p).fenced = false) (grid : s.race.phase = .grid) (car : s.car p = some c)
    (entered : c.standing = .entered) : performReady p r s = (s.declareReady p,
      .ready ((s.declareReady p).countCars fun x => x = .ready) (s.declareReady p).carCount) := by
  unfold performReady
  rw [if_neg (by simp [free]), if_neg (by simp [grid]), car]
  dsimp only
  rw [if_neg (not_not_intro grid), if_neg (by rw [entered]; decide)]

/-- Settles O20: READY between the two ends of its grant; the last READY starts the countdown. -/
theorem readyMayStartTheCountdown : Obligations.ReadyMayStartTheCountdown := by
  intro s p r c granted free grid car entered
  let v := s.requestTaken p
  have done : performReady p r v = _ := performReady_accepted (r := r) ((s.requestTaken_fenced p p).trans free) grid car entered
  obtain ⟨rest, told, stays⟩ := v.declareReady_frame p
  have all := State.readied_allReady_iff (s := v) car
  obtain ⟨same, own, others, ports⟩ := State.changeStanding_told (s := v)
    (fun x => { x with standing := .ready }) (.carState p .ready .none) car
  have cars : (v.declareReady p).cars = (v.readied p).cars := by rw [rest]
  have runs : exec (.ready p) s = .next ((v.declareReady p).responsePlaced p
      (.ready ((v.declareReady p).countCars fun x => x = .ready) (v.declareReady p).carCount)) :=
    congrArg _ (State.grant_ends granted done)
  refine ⟨_, v.readied p, runs, ?_, ?_, fun q other => ?_, ?_, ?_, ports,
    fun waits => ?_, fun ready => ?_⟩
  · show State.responsePlaced p _ (v.declareReady p) = { s with
      cars := (v.declareReady p).cars, race := (v.declareReady p).race, raaPointer := p
      ports := (State.responsePlaced p _ (v.declareReady p)).ports }
    generalize v.declareReady p = d at rest
    rw [rest]
    rfl
  · show (v.declareReady p).cars.get p = _
    rw [cars]
    exact own
  · show (v.declareReady p).cars.get q = _
    rw [cars]
    exact others q other
  · exact State.grantFrame_of_notices granted done told stays (by rw [rest]; rfl) (by rw [rest]; rfl)
  · show v.readied p = { v with cars := (v.declareReady p).cars, ports := (v.readied p).ports }
    rw [cars]
    rfl
  · obtain ⟨q, other, there, unready⟩ := waits
    have waiting : v.declareReady p = v.readied p := by
      rw [State.declareReady_eq, if_neg fun h => unready (all.mp h q other there)]
    exact congrArg (State.responsePlaced p _) waiting
  · have starts : v.declareReady p = (v.readied p).enterCountdown := by
      rw [State.declareReady_eq, if_pos (all.mpr ready)]
    exact ⟨(v.readied p).enterCountdown, State.enterCountdown_spec _,
      congrArg (State.responsePlaced p _) starts⟩

end Sys2Proof.Machine
end

section
/-! PROOF. LEAVE in RESULTS and in the race, between the two ends of its grant (R54 to R56). -/
namespace Sys2Proof.Machine

/-! ### A grant that ends the race (R40, R156) -/

/-- A grant whose performance offers notices to the ports and then returns the race to IDLE. -/
theorem State.grantFrame_of_return {s u v : State} {p : Port} {k : RequestKind} {r : Request}
    {perform : Request → State → State × Response} {response : Response} {reason : Reason}
    (granted : s.granted p k = some r) (done : perform r (s.requestTaken p) = (v, response))
    (told : ∀ q : Port, ((s.requestTaken p).port q).SameButNotices (u.port q))
    (ticks : u.tickCount = s.tickCount) (commands : u.pending = s.pending)
    (back : u.ReturnedToIdle reason v) (started : s.race.phase ≠ .idle) :
    s.GrantFrame p response (v.responsePlaced p response) := by
  have idle : v.race.phase = .idle := by rw [back.race]; rfl
  have port : ∀ q : Port, v.port q = ({ u.port q with pushTimer := none } : PortState).offerAll
      (noticeIf (u.isPresentPort q) (.phase (.changed .idle reason) u.race.number)) := fun q =>
    (back.ports q).trans (PortState.offerIf_eq_offerAll _ _ _)
  rw [← State.grant_ends granted done]
  refine State.grant_frame granted done (fun q => ?_) (fun both => absurd (both.mpr idle) started)
    (fun _ _ q => ?_) (back.clock.2.trans ticks) (back.others.1.trans commands)
  · have stopped : (u.port q).SameButNoticesAndPush { u.port q with pushTimer := none } := rfl
    rw [port]
    exact (told q).andPush.trans (stopped.trans (PortState.offerAll_same _ _).andPush)
  · rw [port, PortState.offerAll_same]

/-! ### LEAVE in RESULTS (R37, R56) -/

theorem performLeave_results {s : State} {p : Port} {c : Car} (r : Request)
    (free : (s.port p).fenced = false) (results : s.race.phase = .results) (car : s.car p = some c) :
    performLeave p r s = (s.release p, .leave .released) := by
  unfold performLeave
  rw [if_neg (by simp [free]), results]
  exact if_pos (by simp [State.isRacePort, car])

/-- Settles O24: the release of the port between the two ends of its grant, where the last one returns the
race to IDLE. -/
theorem leaveReleasesTheResults : Obligations.LeaveReleasesTheResults := by
  intro s p r c granted free results car
  let v := s.requestTaken p
  have done : performLeave p r v = (v.release p, .leave .released) :=
    performLeave_results r ((s.requestTaken_fenced p p).trans free) results car
  have runs : exec (.leave p) s = .next ((v.release p).responsePlaced p (.leave .released)) :=
    congrArg _ (State.grant_ends granted done)
  obtain ⟨waits, returns⟩ := v.release_spec p
  refine ⟨_, runs, ?_, fun awaited => ?_, fun all => ?_⟩
  · by_cases awaited : ∃ q : Port, q ≠ p ∧ s.isRacePort q = true ∧ s.race.releaseSet.get q = false
    · have stays := waits awaited
      refine State.grantFrame_of_notices granted done (fun _ => ?_) ?_ ?_ ?_ <;> rw [stays]
      · rfl
      · exact id
      · rfl
      · rfl
    · have all : ∀ q : Port, q ≠ p → v.isRacePort q = true → v.race.releaseSet.get q = true :=
        fun q other racing => by
          by_contra kept
          exact awaited ⟨q, other, racing, Bool.eq_false_iff.mpr kept⟩
      exact State.grantFrame_of_return granted done (fun _ => rfl) rfl rfl (returns all)
        (by rw [results]; decide)
  · rw [waits awaited, State.answered, ← State.modifyPort_modifyPort]
    rfl
  · have back := returns all
    obtain ⟨entries, active, retired, finish, table⟩ := back.lists
    exact ⟨back.race, back.cars, back.course, table, entries, active, retired, finish, back.clock.1,
      _, back, rfl⟩

/-! ### LEAVE in the race (R54, R55) -/

theorem performLeave_running {s : State} {p : Port} {c : Car} (r : Request)
    (free : (s.port p).fenced = false) (running : s.race.phase.running = true) (car : s.car p = some c)
    (runs : c.standing.running = true) : performLeave p r s = (s.retire p .left, .leave .retired) := by
  have out : (c.standing.isFinished || c.standing.isRetired) = false := by
    cases standing : c.standing <;> simp_all [Standing.running, Standing.isFinished, Standing.isRetired]
  unfold performLeave
  rw [if_neg (by simp [free])]
  rcases (Phase.running_iff _).mp running with phase | phase <;> rw [phase, car] <;>
    exact if_neg (by rw [out]; decide)

/-- A slot that alone changes, and no longer satisfies the test, is counted no more. -/
theorem Bank.count_of_loses {α : Type} {f : α → Bool} {b d : Bank α} {p : Port}
    (others : ∀ q : Port, q ≠ p → d.get q = b.get q) (before : f (b.get p) = true)
    (after : f (d.get p) = false) : b.count f = d.count f + 1 := by
  have split : allPorts.Perm (p :: allPorts.erase p) := List.perm_cons_erase (mem_allPorts p)
  have nodup : allPorts.Nodup := by decide
  have rest : (allPorts.erase p).countP (fun q => f (b.get q)) =
      (allPorts.erase p).countP (fun q => f (d.get q)) :=
    List.countP_congr fun q here => by rw [others q (nodup.mem_erase_iff.mp here).1]
  unfold Bank.count
  rw [split.countP_eq, split.countP_eq]
  simp [before, after, rest]

/-- A retired car counts for the abort vote no more (R126). -/
theorem State.retiredState_eligibleCount {s : State} {p : Port} {c : Car} (reason : Reason)
    (car : s.car p = some c) (runs : c.standing.running = true) :
    s.eligibleCount = (s.retiredState p reason).eligibleCount + 1 := by
  unfold State.eligibleCount State.countCars
  refine Bank.count_of_loses (p := p) (fun q other => ?_) ?_ ?_
  · exact State.modifyCar_car_ne s _ other
  · rw [show s.cars.get p = some c from car]
    exact Standing.eligible_of_running runs
  · have own : (s.retiredState p reason).cars.get p =
        some { c with standing := .retired reason s.raceClock } :=
      (State.modifyCar_car_self s p _).trans (by rw [car]; rfl)
    rw [own]
    rfl

/-- With another car running, and votes short of the threshold without this one, a retirement ends nothing
(R34, R126). -/
theorem State.retire_goes_on {s : State} {p q : Port} {c d : Car} (reason : Reason)
    (car : s.car p = some c) (runs : c.standing.running = true) (other : q ≠ p) (rival : s.car q = some d)
    (racing : d.standing.running = true) (short : 2 * (s.dropVote p).voteCount ≤ s.eligibleCount - 1) :
    (s.retiredState p reason).OnlyNotices (s.retire p reason) := by
  obtain ⟨t, only, ends⟩ := State.retire_spec p reason s
  have rest := only.rest
  have stands : t.car q = some d := by
    rw [rest]
    exact (State.modifyCar_car_ne s _ other).trans rival
  have votes : t.thresholdMet = false := by
    have eligible : t.eligibleCount = (s.retiredState p reason).eligibleCount := by rw [rest]; rfl
    have cast : t.voteCount = (s.dropVote p).voteCount := by rw [rest]; rfl
    have counted := s.retiredState_eligibleCount reason car runs
    unfold State.thresholdMet
    rw [decide_eq_false_iff_not, eligible, cast]
    omega
  rw [ends, State.endTests_goes_on stands racing votes]
  exact only

/-- Settles O22: the retirement and its end tests between the two ends of the grant. -/
theorem leaveRetiresARunningCar : Obligations.LeaveRetiresARunningCar := by
  have accepted : ∀ (s : State) (p : Port) (r : Request) (c : Car), (s.port p).fenced = false →
      s.race.phase.running = true → s.car p = some c → c.standing.running = true →
      performLeave p r (s.requestTaken p) = ((s.requestTaken p).retire p .left, .leave .retired) :=
    fun s p r c free running car runs =>
      performLeave_running r ((s.requestTaken_fenced p p).trans free) running car runs
  refine ⟨fun s p r c granted free running car runs => ?_,
    fun s p q r c d granted free running car runs other rival racing short => ?_⟩
  · obtain ⟨u, retired, ends⟩ := (s.requestTaken p).retire_retired p .left
    refine ⟨u, (s.requestTaken p).retire p .left, retired, ?_,
      congrArg _ (State.grant_ends granted (accepted s p r c free running car runs))⟩
    rw [ends]
    exact u.endTests_spec false
  · let v := s.requestTaken p
    have done := accepted s p r c free running car runs
    have only : (v.retiredState p .left).OnlyNotices (v.retire p .left) :=
      State.retire_goes_on .left car runs other rival racing short
    have rest := only.rest
    have result : exec (.leave p) s = .next ((v.retire p .left).responsePlaced p (.leave .retired)) :=
      congrArg _ (State.grant_ends granted done)
    have cars : (v.retire p .left).cars = (v.retiredState p .left).cars := by rw [rest]
    refine ⟨_, result, ?_, ?_, fun x away => ?_, ?_⟩
    · show State.responsePlaced p _ (v.retire p .left) = _
      generalize v.retire p .left = t at rest
      rw [rest]
      rfl
    · show (v.retire p .left).cars.get p = _
      rw [cars]
      exact (State.modifyCar_car_self v p _).trans (congrArg (Option.map _) car)
    · show (v.retire p .left).cars.get x = _
      rw [cars]
      exact State.modifyCar_car_ne v _ away
    · refine State.grantFrame_of_notices granted done only.ports ?_ ?_ ?_ <;> rw [rest]
      · exact id
      · rfl
      · rfl

end Sys2Proof.Machine
end

section
/-! PROOF. LEAVE before the green, between the two ends of its grant (R23, R52, R53). -/
namespace Sys2Proof.Machine

/-! ### The opener after a withdrawal in FORMING (R23) -/

/-- Who opens the race once the car of port `p` is gone: the opener, or in its place the lowest-numbered
port whose car is ENTERED. -/
def State.nextOpener (p : Port) (s : State) : Option Port :=
  if s.race.opener = some p then
    allPorts.find? fun q => decide (q ≠ p) && decide (s.carState q = .entered)
  else s.race.opener

theorem State.nextOpener_kept {s : State} {p : Port} (other : s.race.opener ≠ some p) :
    s.nextOpener p = s.race.opener := if_neg other

theorem State.nextOpener_lowest {s : State} {p q : Port} (own : s.race.opener = some p) (here : q ≠ p)
    (entered : s.carState q = .entered)
    (lowest : ∀ x : Port, x < q → x ≠ p → s.carState x ≠ .entered) : s.nextOpener p = some q := by
  unfold State.nextOpener
  rw [if_pos own]
  refine find?_lowest (by simp [here, entered]) fun x below => ?_
  by_cases e : x = p
  · simp [e]
  · simp [lowest x below e]

/-- A withdrawal empties its slot and leaves every other car's state (R52). -/
theorem State.withdraw_carState (s : State) (p q : Port) (reason : Reason) :
    (s.withdraw p reason).carState q = if q = p then .empty else s.carState q := by
  rw [State.carState_eq, State.withdraw_standingOf, State.carState_eq]
  split <;> rfl

/-- The ports that a handover after a withdrawal looks for (R23). -/
theorem State.withdraw_entered (s : State) (p : Port) (reason : Reason) :
    (fun q => decide ((s.withdraw p reason).carState q = .entered)) =
      fun q => decide (q ≠ p) && decide (s.carState q = .entered) := by
  funext q
  rw [State.withdraw_carState]
  by_cases e : q = p <;> simp [e]

theorem State.withdrawAndTest_forming {s : State} (forming : s.race.phase = .forming) (p : Port)
    (reason : Reason) : s.withdrawAndTest p reason =
      if s.race.opener = some p then (s.withdraw p reason).handover else s.withdraw p reason := by
  unfold State.withdrawAndTest
  dsimp only
  rw [State.withdraw_race, forming]

/-- While the opener stays, or another car is ENTERED, a withdrawal in FORMING changes the opener alone of
the race record (R23). -/
theorem State.withdrawAndTest_keeps {s : State} {p : Port} (reason : Reason)
    (forming : s.race.phase = .forming)
    (kept : s.race.opener ≠ some p ∨ ∃ q : Port, q ≠ p ∧ s.carState q = .entered) :
    ((s.withdraw p reason).modifyRace fun r => { r with opener := s.nextOpener p }).OnlyNotices
      (s.withdrawAndTest p reason) := by
  rw [State.withdrawAndTest_forming forming]
  by_cases own : s.race.opener = some p
  · obtain ⟨q, other, entered⟩ := kept.resolve_left (not_not_intro own)
    obtain ⟨o, found⟩ : ∃ o, s.nextOpener p = some o := by
      unfold State.nextOpener
      rw [if_pos own]
      exact Option.isSome_iff_exists.mp
        (List.find?_isSome.mpr ⟨q, mem_allPorts q, by simp [other, entered]⟩)
    have search := found
    unfold State.nextOpener at search
    rw [if_pos own, ← s.withdraw_entered p reason] at search
    rw [if_pos own, found]
    unfold State.handover
    rw [search]
    exact State.notifyPhase_only _ _
  · have same : (s.withdraw p reason).modifyRace (fun r => { r with opener := s.nextOpener p }) =
        s.withdraw p reason := by
      rw [State.nextOpener_kept own, ← s.withdraw_race p reason]
      rfl
    rw [if_neg own, same]
    exact .refl _

/-- With the opener gone and no car left ENTERED the race is dissolved (R23). -/
theorem State.withdrawAndTest_dissolves {s : State} {p : Port} (reason : Reason)
    (forming : s.race.phase = .forming) (own : s.race.opener = some p)
    (nobody : ∀ q : Port, q ≠ p → s.carState q ≠ .entered) :
    (s.withdraw p reason).ReturnedToIdle .noOpener (s.withdrawAndTest p reason) := by
  have none : allPorts.find? (fun q => decide ((s.withdraw p reason).carState q = .entered)) = none := by
    rw [State.withdraw_entered]
    exact List.find?_eq_none.mpr fun q _ => by simpa using nobody q
  rw [State.withdrawAndTest_forming forming, if_pos own]
  unfold State.handover
  rw [none]
  exact State.returnToIdle_spec _ _

/-! ### LEAVE before the green (R53) -/

theorem performLeave_before {s : State} {p : Port} {c : Car} (r : Request)
    (free : (s.port p).fenced = false)
    (before : s.race.phase = .forming ∨ s.race.phase = .grid ∨ s.race.phase = .countdown)
    (car : s.car p = some c) : performLeave p r s = (s.withdrawAndTest p .left, .leave .withdrawn) := by
  unfold performLeave
  rw [if_neg (by simp [free])]
  rcases before with phase | phase | phase <;> rw [phase] <;> exact if_pos (by simp [State.isRacePort, car])

/-- Settles O21: the withdrawal and its tests between the two ends of the grant. -/
theorem leaveWithdrawsInForming : Obligations.LeaveWithdrawsInForming := by
  have accepted : ∀ (s : State) (p : Port) (r : Request) (c : Car), (s.port p).fenced = false →
      s.race.phase = .forming ∨ s.race.phase = .grid ∨ s.race.phase = .countdown → s.car p = some c →
      performLeave p r (s.requestTaken p) =
        ((s.requestTaken p).withdrawAndTest p .left, .leave .withdrawn) := fun s p r c free before car =>
    performLeave_before r ((s.requestTaken_fenced p p).trans free) before car
  refine ⟨fun s p r c granted free before car => ?_, fun s p r c granted free forming car => ?_⟩
  · obtain ⟨u, gone, tested⟩ := State.withdrawAndTest_spec (s := s.requestTaken p) .left car
    exact ⟨u, _, gone, tested, congrArg _ (State.grant_ends granted (accepted s p r c free before car))⟩
  let v := s.requestTaken p
  have done := accepted s p r c free (.inl forming) car
  have gone : v.Withdrawn p .left c (v.withdraw p .left) := State.withdraw_spec .left car
  have told : ∀ q : Port, (v.port q).SameButNotices ((v.withdraw p .left).port q) :=
    (State.withdraw_only (s := v) .left car).ports
  have leaves : v.withdraw p .left = { v with
    cars := (v.withdraw p .left).cars, entryList := s.entryList.filter (fun q => q ≠ p)
    ports := (v.withdraw p .left).ports } := gone.rest
  have ticks : (v.withdraw p .left).tickCount = s.tickCount := by rw [leaves]; rfl
  have commands : (v.withdraw p .left).pending = s.pending := by rw [leaves]; rfl
  have runs : exec (.leave p) s =
      .next ((v.withdrawAndTest p .left).responsePlaced p (.leave .withdrawn)) :=
    congrArg _ (State.grant_ends granted done)
  by_cases kept : s.race.opener ≠ some p ∨ ∃ q : Port, q ≠ p ∧ s.carState q = .entered
  · have only : ((v.withdraw p .left).modifyRace fun r =>
        { r with opener := s.nextOpener p }).OnlyNotices (v.withdrawAndTest p .left) :=
      State.withdrawAndTest_keeps .left forming kept
    have race : (v.withdrawAndTest p .left).race = { s.race with opener := s.nextOpener p } := by
      rw [only.rest]
      exact congrArg (fun x : RaceRecord => { x with opener := s.nextOpener p }) (v.withdraw_race p .left)
    have cars : (v.withdrawAndTest p .left).cars = (v.withdraw p .left).cars := by rw [only.rest]; rfl
    have car : ∀ q : Port, (v.withdrawAndTest p .left).car q = (v.withdraw p .left).car q :=
      fun q => congrArg (fun bank => bank.get q) cars
    refine ⟨_, runs, ?_, fun _ => ⟨?_, ?_, fun q other => ?_⟩, fun other => ?_,
      fun own q other entered lowest => ?_, fun own nobody => ?_⟩
    · refine State.grantFrame_of_notices granted done (fun q => (told q).trans (only.ports q))
        (fun idle => ?_) ?_ ?_
      · rw [race] at idle
        exact idle
      · rw [only.rest]
        exact ticks
      · rw [only.rest]
        exact commands
    · have rest := only.rest
      show State.responsePlaced p _ (v.withdrawAndTest p .left) = _
      generalize v.withdrawAndTest p .left = t at rest
      rw [rest, leaves]
      rfl
    · exact (car p).trans gone.gone
    · exact (car q).trans (gone.others q other)
    · refine race.trans ?_
      rw [State.nextOpener_kept other]
    · refine race.trans ?_
      rw [State.nextOpener_lowest own other entered lowest]
    · obtain ⟨q, other, entered⟩ := kept.resolve_left (not_not_intro own)
      exact absurd entered (nobody q other)
  · obtain ⟨own, nobody⟩ := not_or.mp kept
    have own : s.race.opener = some p := not_not.mp own
    have nobody : ∀ q : Port, q ≠ p → s.carState q ≠ .entered := fun q other entered =>
      nobody ⟨q, other, entered⟩
    have back : (v.withdraw p .left).ReturnedToIdle .noOpener (v.withdrawAndTest p .left) :=
      State.withdrawAndTest_dissolves .left forming own nobody
    have number : (v.withdraw p .left).race = s.race := v.withdraw_race p .left
    refine ⟨_, runs, ?_, fun stays => absurd stays kept, fun other => absurd own other,
      fun _ q other entered _ => absurd entered (nobody q other), fun _ _ => ?_⟩
    · exact State.grantFrame_of_return granted done told ticks commands back
        (by rw [forming]; decide)
    · rw [← number]
      exact ⟨back.race, back.course, back.lists.1, back.clock.1, back.cars⟩

end Sys2Proof.Machine
end

section
/-! PROOF. REPORTs that move nothing, and CLEAR_FLAGS, between the two ends of their grants (R67 to R70, R76,
R85, R89). -/
namespace Sys2Proof.Machine

/-! ### The ends of a grant about one car (R61) -/

/-- A grant that performs nothing is an answer. -/
theorem State.responsePlaced_requestTaken (s : State) (p : Port) (response : Response) :
    (s.requestTaken p).responsePlaced p response = s.answered p response := by
  unfold State.answered
  rw [← State.modifyPort_modifyPort]
  rfl

/-- A grant that changes one car and tells nobody is an answer with that change. -/
theorem State.responsePlaced_modifyCar (s : State) (p q : Port) (f : Car → Car) (response : Response) :
    ((s.requestTaken p).modifyCar q f).responsePlaced p response =
      (s.answered p response).modifyCar q f := by
  rw [← State.responsePlaced_requestTaken]
  rfl

theorem State.requestTaken_sameRace (s : State) (p : Port) : s.SameRace (s.requestTaken p) :=
  s.modifyPort_sameRace p _

/-! ### CLEAR_FLAGS (R88, R89) -/

theorem performClearFlags_accepted {s : State} {p : Port} {c : Car} (r : Request)
    (free : (s.port p).fenced = false) (car : s.car p = some c)
    (phase : s.race.phase = .countdown ∨ s.race.phase = .green ∨ s.race.phase = .finishing) :
    performClearFlags p r s =
      (s.modifyCar p fun x => { x with sticky := c.sticky.clearMasked (byteAt r.payload 0) },
        .clearFlags (c.sticky.clearMasked (byteAt r.payload 0))) := by
  unfold performClearFlags
  rw [if_neg (by simp [free])]
  rcases phase with phase | phase | phase <;> rw [phase, car] <;> rfl

/-- Settles O31: the selected flags are cleared within the grant, and nobody is told. -/
theorem clearFlagsClearsSelectedFlags : Obligations.ClearFlagsClearsSelectedFlags := by
  intro s p r c granted free car phase
  have done := performClearFlags_accepted (s := s.requestTaken p) r
    ((s.requestTaken_fenced p p).trans free) car phase
  refine ⟨c.sticky.clearMasked (byteAt r.payload 0), rfl, ?_⟩
  rw [← State.responsePlaced_modifyCar, ← State.grant_ends granted done]
  rfl

/-! ### REPORT by phase and car state (R66, Table 4.3) -/

/-- A REPORT that passes its checks is applied, and answered with the car as it then stands (R66, R85). -/
theorem performReport_accepted {s : State} {p : Port} {c : Car} (r : Request)
    (free : (s.port p).fenced = false) (car : s.car p = some c)
    (phase : s.race.phase = .countdown ∨ s.race.phase.running = true)
    (stays : c.standing.isRetired = false) :
    performReport p r s = (s.applyReport p r, .report ((s.applyReport p r).reportAck p)) := by
  unfold performReport
  rw [if_neg (by simp [free])]
  rw [Phase.running_iff] at phase
  rcases phase with phase | phase | phase <;> rw [phase, car] <;> exact if_neg (Bool.eq_false_iff.mp stays)

/-- A granted REPORT that passes its checks is applied between the two ends of its grant (R61, R66). -/
theorem exec_report_accepted {s : State} {p : Port} {r : Request} {c : Car}
    (granted : s.granted p .report = some r) (free : (s.port p).fenced = false) (car : s.car p = some c)
    (phase : s.race.phase = .countdown ∨ s.race.phase.running = true)
    (stays : c.standing.isRetired = false) :
    exec (.report p) s = .next (((s.requestTaken p).applyReport p r).responsePlaced p
      (.report (((s.requestTaken p).applyReport p r).reportAck p))) :=
  congrArg Host.Outcome.next (State.grant_ends granted (performReport_accepted (s := s.requestTaken p) r
    ((s.requestTaken_fenced p p).trans free) car phase stays))

theorem State.applyReport_ready {s : State} {p : Port} {c : Car} (r : Request)
    (phase : s.race.phase = .countdown) (car : s.car p = some c) (standing : c.standing = .ready) :
    s.applyReport p r = s.countdownReport p r := by
  unfold State.applyReport
  rw [phase, State.carState_of car, standing]
  rfl

theorem State.applyReport_racing {s : State} {p : Port} {c : Car} (r : Request)
    (running : s.race.phase.running = true) (car : s.car p = some c) (standing : c.standing = .racing) :
    s.applyReport p r = s.fullApplication p r := by
  unfold State.applyReport
  rw [State.carState_of car, standing]
  rcases (Phase.running_iff _).mp running with phase | phase <;> rw [phase] <;> rfl

theorem State.applyReport_coasting {s : State} {p : Port} {c : Car} (r : Request)
    (running : s.race.phase.running = true) (car : s.car p = some c) (standing : c.standing = .coasting) :
    s.applyReport p r = s := by
  unfold State.applyReport
  rw [State.carState_of car, standing]
  rcases (Phase.running_iff _).mp running with phase | phase <;> rw [phase] <;> rfl

theorem State.applyReport_finished {s : State} {p : Port} {c : Car} {time : Nat} (r : Request)
    (running : s.race.phase.running = true) (car : s.car p = some c)
    (standing : c.standing = .finished time) : s.applyReport p r = s.modifyCar p (Car.posed r) := by
  unfold State.applyReport
  rw [State.carState_of car, standing]
  rcases (Phase.running_iff _).mp running with phase | phase <;> rw [phase] <;> exact s.storePose_spec p r

/-! ### The response (R85) -/

theorem State.reportAck_of {s : State} {p : Port} {c : Car} (car : s.car p = some c) :
    s.reportAck p = ⟨c.standing.state, s.currentLap c, s.position p, c.status, c.sticky, c.penalty,
      c.distance, c.distanceChange, s.shownTime⟩ := by
  unfold State.reportAck
  rw [car]

theorem State.currentLap_of_not_finished (s : State) {c : Car} (runs : c.standing.isFinished = false) :
    s.currentLap c = c.floorGate.lap := by
  unfold State.currentLap
  rw [runs]
  rfl

theorem State.shownTime_after {s : State} (after : s.race.phase.afterGreen = true) :
    s.shownTime = s.raceClock := by
  unfold State.shownTime
  cases phase : s.race.phase with
  | green | finishing | results => rfl
  | idle | forming | grid | countdown => rw [phase] at after; exact absurd after Bool.false_ne_true

/-! ### COASTING and FINISHED cars (R69, R70) -/

/-- Settles O30: a report of a COASTING car applies nothing, and one of a FINISHED car its pose. -/
theorem coastingAndFinishedReports : Obligations.CoastingAndFinishedReports := by
  intro s p r c granted free running car
  let v := s.requestTaken p
  have shown : v.shownTime = s.raceClock := State.shownTime_after (Phase.afterGreen_of_running running)
  refine ⟨fun coasting => ?_, fun time finished => ?_⟩
  · rw [exec_report_accepted granted free car (.inr running) (by rw [coasting]; rfl),
      State.applyReport_coasting (s := v) r running car coasting, State.reportAck_of (s := v) car,
      State.currentLap_of_not_finished v (by rw [coasting]; rfl), shown, coasting,
      State.responsePlaced_requestTaken]
    rfl
  · have own : (v.modifyCar p (Car.posed r)).car p = some (c.posed r) := by
      rw [State.modifyCar_car_self]
      exact congrArg _ car
    have lap : (v.modifyCar p (Car.posed r)).currentLap (c.posed r) = s.race.settings.laps :=
      if_pos (show c.standing.isFinished = true by rw [finished]; rfl)
    have shown' : (v.modifyCar p (Car.posed r)).shownTime = s.raceClock := shown
    have state : (c.posed r).standing.state = .finished := by
      show c.standing.state = _
      rw [finished]
      rfl
    rw [exec_report_accepted granted free car (.inr running) (by rw [finished]; rfl),
      State.applyReport_finished (s := v) r running car finished, State.reportAck_of own, lap, shown', state,
      State.responsePlaced_modifyCar]
    rfl

/-! ### A report of 0 (R76) -/

/-- A car after a report of 0 (R76, R82, R83). -/
def Car.stood (now : Nat) (r : Request) (c : Car) : Car :=
  { c with
    status := { c.status with reversing := false, rateLimited := false, atFloor := false }
    lastReport := now
    pose := if r.payload.length = 16 then some ⟨r.payload.drop 4, r.arrival⟩ else c.pose }

/-- The full application of a report of 0 changes its car alone (R76). -/
theorem State.fullApplication_zero {s : State} {p : Port} {r : Request} {c : Car} {course : Course}
    (car : s.car p = some c) (loaded : s.course = some course) (racing : c.standing = .racing)
    (zero : reportDelta r.payload = 0) :
    s.fullApplication p r = s.modifyCar p (Car.stood s.raceClock r) := by
  have applied : s.applyDelta p c course s.raceClock 0 =
      s.modifyCar p fun x => (x.markRate false).stand := by
    have uncut : decide (c.allowance s.raceClock < (0 : Int).natAbs) = false := by simp
    have still : limitDelta (c.allowance s.raceClock) 0 = 0 := by simp [limitDelta]
    unfold State.applyDelta
    dsimp only
    rw [uncut, still, if_neg (lt_irrefl _), if_neg (lt_irrefl _), State.modifyCar_modifyCar]
  have own : (s.modifyCar p fun x => (x.markRate false).stand).car p = some (c.markRate false).stand := by
    rw [State.modifyCar_car_self, car]
    rfl
  have runs : (c.markRate false).stand.standing.isFinished = false := by
    show c.standing.isFinished = false
    rw [racing]
    rfl
  have stored : ((s.modifyCar p fun x => (x.markRate false).stand).bookReport p s.raceClock c.distance
      s.runningOrder).storePose p r = s.modifyCar p (Car.stood s.raceClock r) := by
    unfold State.bookReport
    rw [own]
    dsimp only
    rw [runs, if_neg Bool.false_ne_true, if_pos (show (c.markRate false).stand.distance = c.distance from rfl),
      State.storePose_spec, State.modifyCar_modifyCar, State.modifyCar_modifyCar,
      State.modifyCar_const _ car, State.modifyCar_const (Car.stood s.raceClock r) car]
    simp [Car.posed, Car.stand, Car.markRate, Car.stood]
  have goes : (s.modifyCar p (Car.stood s.raceClock r)).carState p ≠ .finished := by
    rw [State.carState_of (c := c.stood s.raceClock r) (by rw [State.modifyCar_car_self, car]; rfl)]
    show c.standing.state ≠ .finished
    rw [racing]
    decide
  unfold State.fullApplication
  rw [car, loaded]
  dsimp only
  rw [zero, applied, stored, if_neg goes]

/-- Settles O26: the full application of a report of 0 between the two ends of its grant. -/
theorem zeroReportClearsMovementFlags : Obligations.ZeroReportClearsMovementFlags := by
  intro s p r c course granted free running car racing loaded zero
  let v := s.requestTaken p
  have own : (v.modifyCar p (Car.stood s.raceClock r)).car p = some (c.stood s.raceClock r) := by
    rw [State.modifyCar_car_self]
    exact congrArg _ car
  have applied : v.applyReport p r = v.modifyCar p (Car.stood s.raceClock r) :=
    (State.applyReport_racing (s := v) r running car racing).trans
      (State.fullApplication_zero (s := v) car loaded racing zero)
  have shown : (v.modifyCar p (Car.stood s.raceClock r)).shownTime = s.raceClock :=
    State.shownTime_after (s := v.modifyCar p _) (Phase.afterGreen_of_running running)
  have runs : (c.stood s.raceClock r).standing = .racing := racing
  rw [exec_report_accepted granted free car (.inr running) (by rw [racing]; rfl), applied,
    State.reportAck_of own, State.currentLap_of_not_finished _ (by rw [runs]; rfl), shown, runs,
    State.responsePlaced_modifyCar]
  rfl

/-! ### COUNTDOWN (R67) -/

/-- A READY car after a report in COUNTDOWN (R67, R68). -/
def Car.countedDown (setting : Nat) (r : Request) (c : Car) : Car :=
  { c with
    sticky := { c.sticky with
      jumpStart := c.sticky.jumpStart || decide (0 < reportDelta r.payload) }
    penalty := if 0 < reportDelta r.payload ∧ c.penalty = 0 then setting else c.penalty
    pose := if r.payload.length = 16 then some ⟨r.payload.drop 4, r.arrival⟩ else c.pose }

/-- A report in COUNTDOWN changes its car, and tells its port of a first jump start (R67). -/
theorem State.countdownReport_told {s : State} {p : Port} {c : Car} (r : Request)
    (car : s.car p = some c) :
    (s.modifyCar p (Car.countedDown s.race.settings.jumpStartPenalty r)).Told
      (fun q => noticeIf (decide (q = p ∧ 0 < reportDelta r.payload ∧ c.sticky.jumpStart = false))
        (.flag (c.countedDown s.race.settings.jumpStartPenalty r).penalty))
      (s.countdownReport p r) := by
  unfold State.countdownReport
  rw [State.storePose_spec]
  split
  · next jumps =>
    let penalty := jumpPenalty s.race.settings.jumpStartPenalty c.penalty
    let mark : Car → Car := fun x => { x with sticky := { x.sticky with jumpStart := true }, penalty := penalty }
    have final : (s.modifyCar p mark).modifyCar p (Car.posed r) =
        s.modifyCar p (Car.countedDown s.race.settings.jumpStartPenalty r) := by
      rw [State.modifyCar_modifyCar, State.modifyCar_const _ car,
        State.modifyCar_const (Car.countedDown _ r) car]
      simp [mark, penalty, Car.countedDown, Car.posed, jumpPenalty, jumps]
    have applied : (c.countedDown s.race.settings.jumpStartPenalty r).penalty = penalty := by
      simp [penalty, Car.countedDown, jumpPenalty, jumps]
    unfold State.jumpStart
    rw [car, applied, ← final]
    dsimp only
    cases before : c.sticky.jumpStart with
    | true => exact (State.Told.refl _).congr fun q => by simp [noticeIf]
    | false =>
      exact (State.notifyOwn_told p (.flag penalty) ((s.modifyCar p mark).modifyCar p (Car.posed r))).congr
        fun q => by simp [jumps]
  · next stands =>
    have final : s.modifyCar p (Car.posed r) =
        s.modifyCar p (Car.countedDown s.race.settings.jumpStartPenalty r) := by
      rw [State.modifyCar_const _ car, State.modifyCar_const (Car.countedDown _ r) car]
      simp [Car.countedDown, Car.posed, stands]
    rw [final]
    exact (State.Told.refl _).congr fun q => by simp [noticeIf, stands]

/-- Settles O25: a report in COUNTDOWN between the two ends of its grant. -/
theorem countdownReportMayJumpStart : Obligations.CountdownReportMayJumpStart := by
  intro s p r c granted free phase car ready
  let v := s.requestTaken p
  let setting := s.race.settings.jumpStartPenalty
  have stays : c.standing.isRetired = false := by rw [ready]; rfl
  have done := performReport_accepted (s := v) r ((s.requestTaken_fenced p p).trans free) car (.inl phase) stays
  have told := State.countdownReport_told (s := v) r car
  rw [State.applyReport_ready (s := v) r phase car ready] at done
  generalize v.countdownReport p r = u at done told
  have cars : ∀ q : Port, u.car q = (v.modifyCar p (Car.countedDown setting r)).car q := told.car
  have own : u.car p = some (c.countedDown setting r) := by
    rw [cars, State.modifyCar_car_self]
    exact congrArg _ car
  have order : u.position p = s.position p := by rw [told.rest]; rfl
  have time : u.shownTime = s.shownTime := by rw [told.rest]; rfl
  have ack : u.reportAck p = ⟨.ready, c.floorGate.lap, s.position p, c.status,
      (c.countedDown setting r).sticky, (c.countedDown setting r).penalty, c.distance, c.distanceChange,
      s.shownTime⟩ := by
    have still : (c.countedDown setting r).standing = .ready := ready
    rw [State.reportAck_of own, State.currentLap_of_not_finished _ (by rw [still]; rfl), still, order, time]
    rfl
  refine ⟨u.responsePlaced p (.report (u.reportAck p)), c.countedDown setting r, u.reportAck p,
    congrArg _ (State.grant_ends granted done), ?_, own, fun q other => ?_, rfl, rfl, rfl, rfl, ?_, ack, fun q => ?_⟩
  · rw [told.rest]
    rfl
  · exact (cars q).trans (State.modifyCar_car_ne _ _ other)
  · refine State.grantFrame_of_notices granted done (fun q => ?_) (fun idle => ?_) ?_ ?_
    · rw [told.ports]
      exact PortState.offerAll_same _ _
    · rw [told.race] at idle
      exact idle
    · rw [told.rest]; rfl
    · rw [told.rest]; rfl
  · rw [PortState.offerIf_eq_offerAll]
    exact State.grant_sameNotices _ (told.ports q) (s.requestTaken_link p q) (s.requestTaken_sameNotices p q)

end Sys2Proof.Machine
end

section
/-! PROOF. A reverse REPORT between the two ends of its grant (R72 to R74, R82, R94, R100, R101). -/
namespace Sys2Proof.Machine

/-! ### The movement (R72 to R74) -/

/-- A reverse delta held to an allowance is the lesser of the two, backward. -/
theorem limitDelta_reverse {allowance : Nat} {delta : Int} (back : delta < 0) :
    limitDelta allowance delta = -((min delta.natAbs allowance : Nat) : Int) := by
  unfold limitDelta
  rw [if_pos back]
  split <;> omega

/-- A car that has fallen back, no further than its floor (R72, R73). -/
def Car.fallen (floor back : Nat) (cut : Bool) (c : Car) : Car :=
  { c with
    distance := max floor (c.distance - back), reverseRun := min 0xFFFFFFFF (c.reverseRun + back)
    status := ⟨true, cut, decide (c.distance < floor + back), c.status.wrongWay⟩
    sticky := { c.sticky with
      rateSeen := c.sticky.rateSeen || cut
      floorSeen := c.sticky.floorSeen || decide (c.distance < floor + back) } }

theorem Car.reverse_markRate (floor back : Nat) (cut : Bool) (c : Car) :
    (c.markRate cut).reverse floor (-(back : Int)) = c.fallen floor back cut := by
  have held : decide ((c.distance : Int) + -(back : Int) < (floor : Int)) =
      decide (c.distance < floor + back) := by
    rw [decide_eq_decide]
    omega
  have distance : (if decide (c.distance < floor + back) then floor
      else ((c.distance : Int) + -(back : Int)).toNat) = max floor (c.distance - back) := by
    split <;> next h =>
      rw [decide_eq_true_iff] at h
      omega
  have run : (-(back : Int)).natAbs = back := by omega
  unfold Car.reverse Car.markRate reverseRunLimit
  dsimp only
  rw [held, distance, run]
  rfl

/-- A car after a reverse movement with its wrong-way test: WRONG_WAY is set by the run that reaches the
threshold, and WRONG_WAY_SEEN with it (R72 to R74). -/
def Car.backed (floor threshold back : Nat) (cut : Bool) (c : Car) : Car :=
  let wrong := c.status.wrongWay || decide (threshold ≤ (c.fallen floor back cut).reverseRun)
  { c.fallen floor back cut with
    status := { (c.fallen floor back cut).status with wrongWay := wrong }
    sticky := { (c.fallen floor back cut).sticky with
      wrongWaySeen := c.sticky.wrongWaySeen || (wrong && !c.status.wrongWay) } }

theorem Car.backed_eq (floor threshold back : Nat) (cut : Bool) (c : Car) :
    c.backed floor threshold back cut =
      if threshold ≤ (c.fallen floor back cut).reverseRun ∧ c.status.wrongWay = false then
        (c.fallen floor back cut).markWrongWay
      else c.fallen floor back cut := by
  unfold Car.backed
  split
  · next wrong =>
    obtain ⟨long, clear⟩ := wrong
    rw [decide_eq_true long, clear]
    simp [Car.markWrongWay]
  · next calm =>
    have same : (c.status.wrongWay || decide (threshold ≤ (c.fallen floor back cut).reverseRun)) =
        c.status.wrongWay := by
      cases before : c.status.wrongWay with
      | true => rfl
      | false => exact decide_eq_false fun long => calm ⟨long, before⟩
    rw [same]
    dsimp only
    rw [Bool.and_not_self, Bool.or_false]
    rfl

/-- WRONG_WAY begins where the run reaches the threshold and it was clear (R74). -/
theorem Car.backed_wrongWay (floor threshold back : Nat) (cut : Bool) (c : Car) :
    ((c.backed floor threshold back cut).status.wrongWay && !c.status.wrongWay) =
      decide (threshold ≤ (c.fallen floor back cut).reverseRun ∧ c.status.wrongWay = false) := by
  show ((c.status.wrongWay || _) && _) = _
  cases c.status.wrongWay <;> simp

/-- A reverse report moves its car, and tells its port where WRONG_WAY begins (R72 to R74). -/
theorem State.applyDelta_back {s : State} {p : Port} {c : Car} {course : Course} {back : Nat} {delta : Int}
    (car : s.car p = some c) (backward : delta < 0) (rate : 1 ≤ c.rateLimit)
    (held : back = min delta.natAbs (c.allowance s.raceClock)) :
    (s.modifyCar p fun _ => c.backed (course.position c.floorGate) s.race.settings.wrongWayThreshold back
      (decide (back < delta.natAbs))).Told
      (fun q => noticeIf (decide (q = p) && ((c.backed (course.position c.floorGate)
          s.race.settings.wrongWayThreshold back (decide (back < delta.natAbs))).status.wrongWay &&
            !c.status.wrongWay))
        (.wrongWay true (c.backed (course.position c.floorGate)
          s.race.settings.wrongWayThreshold back (decide (back < delta.natAbs))).reverseRun))
      (s.applyDelta p c course s.raceClock delta) := by
  have allowed := Car.allowance_pos s.raceClock rate
  have cut : decide (c.allowance s.raceClock < delta.natAbs) = decide (back < delta.natAbs) := by
    rw [decide_eq_decide, held]
    omega
  generalize decide (back < delta.natAbs) = limited at cut
  let rated := s.modifyCar p (Car.markRate limited)
  have own : rated.car p = some (c.markRate limited) := by
    rw [State.modifyCar_car_self, car]
    rfl
  have both : ∀ e : Car, rated.modifyCar p (fun _ => e) = s.modifyCar p fun _ => e := fun e =>
    State.modifyCar_modifyCar s p _ _
  have applied : s.applyDelta p c course s.raceClock delta = rated.travelBack p course (-(back : Int)) := by
    unfold State.applyDelta
    dsimp only
    rw [cut, limitDelta_reverse backward, ← held, if_pos (by omega)]
  have floor : (c.markRate limited).floorGate = c.floorGate := rfl
  have run : (c.backed (course.position c.floorGate) s.race.settings.wrongWayThreshold back
      limited).reverseRun = (c.fallen (course.position c.floorGate) back limited).reverseRun := rfl
  have moved : rated.travelBack p course (-(back : Int)) =
      if s.race.settings.wrongWayThreshold ≤ (c.fallen (course.position c.floorGate) back limited).reverseRun ∧
          c.status.wrongWay = false then
        ((s.modifyCar p fun _ => c.fallen (course.position c.floorGate) back limited).modifyCar p
          Car.markWrongWay).notifyOwn p
            (.wrongWay true (c.fallen (course.position c.floorGate) back limited).reverseRun)
      else s.modifyCar p fun _ => c.fallen (course.position c.floorGate) back limited := by
    unfold State.travelBack
    rw [own]
    dsimp only
    rw [floor, Car.reverse_markRate, both]
    rfl
  rw [applied, moved, run]
  simp only [Car.backed_wrongWay]
  rw [Car.backed_eq]
  split
  · next wrong =>
    rw [State.modifyCar_modifyCar]
    exact (State.notifyOwn_told p _ _).congr fun q => by rw [decide_eq_true wrong, Bool.and_true]
  · next calm =>
    exact (State.Told.refl _).congr fun q => by rw [decide_eq_false calm, Bool.and_false]; rfl

/-! ### The booking (R82) -/

/-- A car that a report has been booked for: the report time, and the change time where D has changed (R82). -/
def Car.booked (now before : Nat) (c : Car) : Car :=
  { c with lastReport := now, distanceChange := if c.distance = before then c.distanceChange else now }

/-- A running order that has not changed raises no notice (R100, R101). -/
theorem moveNotices_self (isRace : Bool) (q : Port) (order : List Port) :
    moveNotices isRace q order order = [] := by
  unfold moveNotices
  cases order.idxOf? q <;> cases order.head? <;> simp [noticeIf]

/-- What the booking of a report does to a state where its car, `d`, does not finish (R82, R94). -/
structure State.Booked (p : Port) (now before : Nat) (d : Car) (s t : State) : Prop where
  rest : t = { s with
    cars := (s.modifyCar p (Car.booked now before)).cars, activeGroup := t.activeGroup, ports := t.ports }
  group : t.activeGroup = if d.distance = before then s.activeGroup
    else t.placeByDistance p (s.activeGroup.filter (fun q => q ≠ p))
  same : ∀ q : Port, (s.port q).SameButNotices (t.port q)
  ports : t.runningOrder.Nodup → ∀ q : Port, t.port q =
    (s.port q).offerAll (moveNotices (s.isRacePort q) q s.runningOrder t.runningOrder)

/-- A change of a car that keeps its D leaves the places by D (R94). -/
theorem State.modifyCar_placeByDistance (s : State) (p q : Port) {f : Car → Car}
    (keeps : ∀ c, (f c).distance = c.distance) (group : List Port) :
    (s.modifyCar p f).placeByDistance q group = s.placeByDistance q group :=
  State.placeByDistance_congr (fun x => State.modifyCar_distance s p x keeps) q group

/-- The booking of a report whose car does not finish (R82). -/
theorem State.bookReport_booked {s : State} {p : Port} {d : Car} (now before : Nat) (car : s.car p = some d)
    (runs : d.standing.isFinished = false) :
    s.Booked p now before d (s.bookReport p now before s.runningOrder) := by
  let booked := s.modifyCar p (Car.booked now before)
  have placed : s.bookReport p now before s.runningOrder =
      if d.distance = before then booked else (booked.reinsert p).notifyMove s.runningOrder := by
    unfold State.bookReport
    rw [car]
    dsimp only
    rw [runs, if_neg Bool.false_ne_true]
    rfl
  rw [placed]
  split
  · next stood =>
    refine ⟨rfl, (if_pos stood).symm, fun _ => rfl, fun _ q => ?_⟩
    have order : booked.runningOrder = s.runningOrder := rfl
    rw [order, moveNotices_self]
    rfl
  · next moved =>
    have only := State.notifyMove_only s.runningOrder (booked.reinsert p)
    have told := State.notifyMove_told s.runningOrder (booked.reinsert p)
    generalize (booked.reinsert p).notifyMove s.runningOrder = t at only told
    have order : t.runningOrder = (booked.reinsert p).runningOrder := by rw [only.rest]; rfl
    have group : t.activeGroup = booked.placeByDistance p (s.activeGroup.filter (fun q => q ≠ p)) := by
      rw [only.rest]
      rfl
    have cars : t.cars = booked.cars := by rw [only.rest]; rfl
    refine ⟨?_, ?_, only.ports, fun nodup q => ?_⟩
    · show t = { s with cars := booked.cars, activeGroup := t.activeGroup, ports := t.ports }
      rw [group, only.rest]
      rfl
    · have distance : ∀ q : Port, t.distance q = booked.distance q := fun q => by
        unfold State.distance State.car
        rw [cars]
      rw [if_neg moved, State.placeByDistance_congr distance]
      exact group
    · have after := (told (by rw [← order]; exact nodup)).ports q
      have isRace : (booked.reinsert p).isRacePort q = s.isRacePort q := State.modifyCar_isRacePort s p q _
      rw [after, order, isRace]
      rfl

/-! ### The full application of a reverse report -/

/-- A car after a reverse report (R72 to R74, R82, R83). -/
def Car.drivenBack (course : Course) (threshold now back : Nat) (cut : Bool) (r : Request) (c : Car) : Car :=
  ((c.backed (course.position c.floorGate) threshold back cut).booked now c.distance).posed r

/-- The full application of a reverse report. -/
structure State.Backward (p : Port) (c d : Car) (s u : State) : Prop where
  rest : u = { s with cars := u.cars, activeGroup := u.activeGroup, ports := u.ports }
  car : u.car p = some d
  others : s.OtherCars p u
  group : u.activeGroup = if d.distance = c.distance then s.activeGroup
    else u.placeByDistance p (s.activeGroup.filter (fun q => q ≠ p))
  same : ∀ q : Port, (s.port q).SameButNotices (u.port q)
  ports : u.runningOrder.Nodup → ∀ q : Port, u.port q = (s.port q).offerAll
    (noticeIf (decide (q = p) && (d.status.wrongWay && !c.status.wrongWay)) (.wrongWay true d.reverseRun) ++
      moveNotices (s.isRacePort q) q s.runningOrder u.runningOrder)

/-- The full application: the movement, its booking and the pose, and the end tests where the car finishes
(section 4.4). -/
theorem State.fullApplication_eq {s : State} {p : Port} {c : Car} {course : Course} (r : Request)
    (car : s.car p = some c) (loaded : s.course = some course) :
    s.fullApplication p r =
      if ((((s.applyDelta p c course s.raceClock (reportDelta r.payload)).bookReport p s.raceClock c.distance
          s.runningOrder).storePose p r).carState p = .finished) then
        (((s.applyDelta p c course s.raceClock (reportDelta r.payload)).bookReport p s.raceClock c.distance
          s.runningOrder).storePose p r).endTests true
      else ((s.applyDelta p c course s.raceClock (reportDelta r.payload)).bookReport p s.raceClock c.distance
          s.runningOrder).storePose p r := by
  unfold State.fullApplication
  rw [car, loaded]

/-- A reverse report moves its car back, and the car takes its place by its D (R73, R82, R94). -/
theorem State.fullApplication_back {s : State} {p : Port} {r : Request} {c : Car} {course : Course}
    {back : Nat} (car : s.car p = some c) (loaded : s.course = some course) (racing : c.standing = .racing)
    (backward : reportDelta r.payload < 0) (rate : 1 ≤ c.rateLimit)
    (held : back = min (reportDelta r.payload).natAbs (c.allowance s.raceClock)) :
    s.Backward p c (c.drivenBack course s.race.settings.wrongWayThreshold s.raceClock back
      (decide (back < (reportDelta r.payload).natAbs)) r) (s.fullApplication p r) := by
  have told := State.applyDelta_back (course := course) car backward rate held
  let m := c.backed (course.position c.floorGate) s.race.settings.wrongWayThreshold back
    (decide (back < (reportDelta r.payload).natAbs))
  let d := (m.booked s.raceClock c.distance).posed r
  have still : m.standing = .racing := racing
  show s.Backward p c d _
  rw [State.fullApplication_eq r car loaded]
  generalize s.applyDelta p c course s.raceClock (reportDelta r.payload) = t at told
  have own : t.car p = some m := by
    rw [told.car, State.modifyCar_car_self, car]
    rfl
  have order : t.runningOrder = s.runningOrder := by rw [told.rest]; rfl
  have booking := State.bookReport_booked s.raceClock c.distance own (by rw [still]; rfl)
  rw [order] at booking
  generalize t.bookReport p s.raceClock c.distance s.runningOrder = b at booking
  have bcar : ∀ q : Port, b.car q = (t.modifyCar p (Car.booked s.raceClock c.distance)).car q := fun q => by
    rw [booking.rest]
    rfl
  have dcar : (b.modifyCar p (Car.posed r)).car p = some d := by
    rw [State.modifyCar_car_self, bcar, State.modifyCar_car_self, own]
    rfl
  have goes : (b.modifyCar p (Car.posed r)).carState p ≠ .finished := by
    rw [State.carState_of dcar]
    show m.standing.state ≠ .finished
    rw [still]
    decide
  rw [State.storePose_spec, if_neg goes]
  have group : t.activeGroup = s.activeGroup := by rw [told.rest]; rfl
  refine ⟨?_, dcar, fun q other => ?_, ?_, fun q => ?_, fun nodup q => ?_⟩
  · have rest := booking.rest
    rw [told.rest] at rest
    generalize b.activeGroup = g, b.ports = x at rest
    rw [rest]
    rfl
  · rw [State.modifyCar_car_ne _ _ other, bcar, State.modifyCar_car_ne _ _ other, told.car,
      State.modifyCar_car_ne _ _ other]
  · rw [State.modifyCar_placeByDistance _ _ _ (f := Car.posed r) fun _ => rfl, ← group]
    exact booking.group
  · have first := booking.same q
    rw [told.ports] at first
    exact (PortState.offerAll_same _ _).trans first
  · have after := booking.ports nodup q
    have isRace : t.isRacePort q = s.isRacePort q :=
      (told.isRacePort q).trans (State.modifyCar_isRacePort s p q _)
    rw [told.ports, ← PortState.offerAll_append, isRace, order] at after
    exact after

/-- Settles O27: the full application of a reverse report between the two ends of its grant. -/
theorem reverseReportIsHeldAtTheFloor : Obligations.ReverseReportIsHeldAtTheFloor := by
  intro s p r c course back granted free running car racing loaded backward rate held
  let v := s.requestTaken p
  have after := Phase.afterGreen_of_running running
  have done := performReport_accepted (s := v) r ((s.requestTaken_fenced p p).trans free) car (.inr running)
    (by rw [racing]; rfl)
  have sound : s.OrderSound → (v.fullApplication p r).OrderSound := fun h =>
    ((s.requestTaken_sameRace p).keepsOrder.sound h).fullApplication r after (by
      rw [State.carState_of (s := v) car, racing]; rfl)
  have drive := State.fullApplication_back (s := v) car loaded racing backward rate held
  rw [State.applyReport_racing (s := v) r running car racing] at done
  generalize v.fullApplication p r = u at done sound drive
  let d := c.drivenBack course s.race.settings.wrongWayThreshold s.raceClock back
    (decide (back < (reportDelta r.payload).natAbs)) r
  have own : u.car p = some d := drive.car
  have race : u.race = s.race := by rw [drive.rest]; rfl
  have clock : u.shownTime = s.raceClock := by
    rw [State.shownTime_after (by rw [race]; exact after), drive.rest]
    rfl
  have still : d.standing = .racing := racing
  have ack : u.reportAck p = ⟨.racing, c.floorGate.lap, u.position p, d.status, d.sticky, c.penalty,
      d.distance, d.distanceChange, s.raceClock⟩ := by
    rw [State.reportAck_of own, State.currentLap_of_not_finished _ (by rw [still]; rfl), still, clock]
    rfl
  refine ⟨u.responsePlaced p (.report (u.reportAck p)), d, u.reportAck p,
    congrArg _ (State.grant_ends granted done), ?_, own, fun q other => drive.others q other, rfl, drive.group, ?_,
    ack, fun order q => ?_⟩
  · have rest := drive.rest
    generalize u.reportAck p = response
    rw [rest]
    rfl
  · refine State.grantFrame_of_notices granted done drive.same (fun idle => ?_) ?_ ?_
    · rw [race] at idle
      exact idle
    · rw [drive.rest]; rfl
    · rw [drive.rest]; rfl
  · rw [Bool.and_assoc]
    exact State.grant_sameNotices _ (drive.ports (sound order).nodup q) (s.requestTaken_link p q)
      (s.requestTaken_sameNotices p q)

end Sys2Proof.Machine
end

section
/-! PROOF. A forward REPORT between the two ends of its grant, short of F and up to it (R75, R78 to R82, R84,
R94, R97). -/
namespace Sys2Proof.Machine

/-! ### The running order after a forward report (R94, R97) -/

/-- One member of a list put in front of the others. -/
theorem perm_cons_filter_ne {l : List Port} {p : Port} (nodup : l.Nodup) (member : p ∈ l) :
    l.Perm (p :: l.filter fun q => q ≠ p) := by
  have apart : (p :: l.filter fun q => q ≠ p).Nodup :=
    List.nodup_cons.mpr ⟨by simp, nodup.filter _⟩
  refine (List.perm_ext_iff_of_nodup nodup apart).mpr fun q => ?_
  by_cases own : q = p
  · simp [own, member]
  · simp [own]

/-- A forward report moves its car within the running order, and no other car leaves or joins it. -/
theorem State.Forward.runningOrder_perm {s u : State} {p : Port} {course : Course} {ahead : Nat} {cut : Bool}
    {gates : List Gate} {r : Request} {c : Car} (f : s.Forward p course ahead cut gates r c u)
    (order : s.OrderSound) (after : s.race.phase.afterGreen = true) (active : s.bandOf p = some .active) :
    u.runningOrder.Perm s.runningOrder := by
  have groups := order.groups after
  have apart := perm_cons_filter_ne groups.activeOnce ((groups.active p).mpr active)
  have retired : u.retiredGroup = s.retiredGroup := by rw [f.rest]
  have finished := congrArg State.finishList f.rest
  have race : u.race = s.race := by rw [f.rest]
  rw [State.runningOrder_after after, State.runningOrder_after (by rw [race]; exact after), f.group, retired,
    finished]
  refine List.Perm.append_right _ ?_
  split
  · rw [List.map_append, List.append_assoc]
    exact List.Perm.append_left _ apart.symm
  · rw [List.append_nil]
    exact List.Perm.append_left _ ((u.placeByDistance_perm p _).trans apart.symm)

/-! ### The car after a forward report (R75 to R81) -/

/-- The gates crossed by a forward report leave its car within the bounds (R77). -/
theorem Car.Crossed.distanceSound {course : Course} {laps now ahead : Nat} {cut : Bool} {gates : List Gate}
    {r : Request} {c : Car}
    (crossed : c.Crossed course laps now gates (c.carried course laps now ahead cut gates r))
    (sound : course.Sound) (bounds : c.DistanceSound course laps) (racing : c.standing = .racing)
    (on : course.OnChain laps (gates.getLastD c.floorGate)) :
    (c.carried course laps now ahead cut gates r).DistanceSound course laps := by
  have moved := bounds.forward_cross (now := now) (delta := ahead) sound (by rw [racing]; rfl) crossed.chain
    crossed.reached on crossed.beyond
  exact moved.of_sameProgress ⟨rfl, rfl, rfl, rfl, rfl⟩

/-- A forward report crosses the last gate exactly where it reaches F (R81). -/
theorem Car.carried_finishes_iff {course : Course} {laps now ahead : Nat} {cut : Bool} {gates : List Gate}
    {r : Request} {c : Car} (racing : c.standing = .racing)
    (bounds : (c.carried course laps now ahead cut gates r).DistanceSound course laps) :
    (⟨laps + 1, 0⟩ : Gate) ∈ gates ↔ course.finish laps ≤ c.distance + ahead := by
  have standing : (c.carried course laps now ahead cut gates r).standing.isFinished =
      decide ((⟨laps + 1, 0⟩ : Gate) ∈ gates) := by
    unfold Car.carried
    by_cases last : (⟨laps + 1, 0⟩ : Gate) ∈ gates
    · simp [last, Standing.isFinished]
    · simp [last, racing, Standing.isFinished]
  have ends := bounds.finished
  rw [standing, decide_eq_true_iff] at ends
  refine ends.trans ?_
  show min (c.distance + ahead) (course.finish laps) = course.finish laps ↔ _
  exact min_eq_right_iff

/-- A car at F stands on the chain's last gate (R9, R77). -/
theorem Car.DistanceSound.last_gate {course : Course} {laps : Nat} {c : Car}
    (bounds : c.DistanceSound course laps) (sound : course.Sound) (arrived : c.distance = course.finish laps) :
    c.floorGate = ⟨laps + 1, 0⟩ ∧ c.nextGate = none := by
  have next : c.nextGate = none := by
    refine Option.eq_none_iff_forall_ne_some.mpr fun g ahead => ?_
    have short := bounds.below g ahead
    have inside := sound.position_le_finish
      (Course.next_onChain sound.gates bounds.gate (bounds.next.symm.trans ahead)).1
    omega
  exact ⟨(Course.next_eq_none_iff bounds.gate).mp (bounds.next.symm.trans next), next⟩

/-! ### The application of a forward report -/

/-- A forward report of a RACING car moves it ahead, and is followed by the end tests where it reaches F (R75,
R81, R84). -/
theorem State.applyReport_forward {s : State} {p : Port} {r : Request} {c : Car} {course : Course}
    {ahead : Nat} (sound : s.DistancesSound) (running : s.race.phase.running = true)
    (car : s.car p = some c) (racing : c.standing = .racing) (loaded : s.course = some course)
    (forward : 0 < reportDelta r.payload) (rate : 1 ≤ c.rateLimit)
    (held : ahead = min (reportDelta r.payload).natAbs (c.allowance s.raceClock)) :
    ∃ (u : State) (gates : List Gate),
      s.applyReport p r = (if course.finish s.race.settings.laps ≤ c.distance + ahead
        then u.endTests true else u) ∧
      s.Forward p course ahead (decide (ahead < (reportDelta r.payload).natAbs)) gates r c u ∧
      c.Crossed course s.race.settings.laps s.raceClock gates
        (c.carried course s.race.settings.laps s.raceClock ahead
          (decide (ahead < (reportDelta r.payload).natAbs)) gates r) ∧
      (c.carried course s.race.settings.laps s.raceClock ahead
        (decide (ahead < (reportDelta r.payload).natAbs)) gates r).DistanceSound course
          s.race.settings.laps ∧
      ((⟨s.race.settings.laps + 1, 0⟩ : Gate) ∈ gates ↔
        course.finish s.race.settings.laps ≤ c.distance + ahead) ∧
      (s.OrderSound → u.runningOrder.Nodup) := by
  have after := Phase.afterGreen_of_running running
  have bounds := sound.cars after course loaded p c car
  have good := sound.course course loaded
  obtain ⟨u, gates, applied, drive, crossed, on⟩ :=
    State.fullApplication_forward good car loaded bounds racing forward rate held
  have within := crossed.distanceSound good bounds racing on
  have ends := Car.carried_finishes_iff racing within
  refine ⟨u, gates, ?_, drive, crossed, within, ends, fun order => ?_⟩
  · rw [State.applyReport_racing r running car racing, applied]
    simp only [ends]
  · refine (drive.runningOrder_perm order after ?_).nodup_iff.mpr order.nodup
    exact State.bandOf_of_carState (.inl (by rw [State.carState_of car, racing]; rfl))

theorem forwardNotices_short {course : Course} {laps now : Nat} {gates : List Gate} (p : Port) (c : Car)
    (place : Nat) (q : Port) (isRace : Bool) (short : (⟨laps + 1, 0⟩ : Gate) ∉ gates) :
    forwardNotices course laps now gates p c place q isRace =
      if q = p then noticeIf c.status.wrongWay (.wrongWay false c.reverseRun) ++
        gateNotices course now c.lastLine gates else [] := by
  unfold forwardNotices
  rw [decide_eq_false short, Bool.and_false]
  exact List.append_nil _

theorem forwardNotices_finish {course : Course} {laps now : Nat} {gates : List Gate} (p : Port) (c : Car)
    (place : Nat) (q : Port) (isRace : Bool) (last : (⟨laps + 1, 0⟩ : Gate) ∈ gates) :
    forwardNotices course laps now gates p c place q isRace =
      (if q = p then noticeIf c.status.wrongWay (.wrongWay false c.reverseRun) ++
        gateNotices course now c.lastLine gates else []) ++ noticeIf isRace (.finish p place now) := by
  unfold forwardNotices
  rw [decide_eq_true last, Bool.and_true]

/-- Settles O28: the full application of a forward report short of F, between the two ends of its grant. -/
theorem forwardReportCrossesGates : Obligations.ForwardReportCrossesGates := by
  intro s p r c course ahead granted free running sound car racing loaded forward rate held short
  let v := s.requestTaken p
  have after := Phase.afterGreen_of_running running
  have stays : c.standing.isRetired = false := by rw [racing]; rfl
  have done := performReport_accepted (s := v) r ((s.requestTaken_fenced p p).trans free) car (.inr running) stays
  obtain ⟨u, gates, applied, drive, crossed, within, ends, nodup⟩ := State.applyReport_forward (s := v)
    ((s.modifyPort_keepsDistances p _).sound sound) running car racing loaded forward rate held
  rw [if_neg (show ¬course.finish v.race.settings.laps ≤ c.distance + ahead from Nat.not_le.mpr short)] at applied
  rw [applied] at done
  have below : (⟨v.race.settings.laps + 1, 0⟩ : Gate) ∉ gates := fun last =>
    absurd (ends.mp last) (Nat.not_le.mpr short)
  let d := c.carried course s.race.settings.laps s.raceClock ahead
    (decide (ahead < (reportDelta r.payload).natAbs)) gates r
  have own : u.car p = some d := drive.car
  have race : u.race = s.race := by rw [drive.rest]; rfl
  have list : v.finishList ++ (if (⟨v.race.settings.laps + 1, 0⟩ : Gate) ∈ gates
      then [(⟨p, v.raceClock⟩ : FinishEntry)] else []) = s.finishList := by
    rw [if_neg below, List.append_nil]
    rfl
  have rest := drive.rest
  rw [list] at rest
  have group : u.activeGroup = u.placeByDistance p (s.activeGroup.filter (fun q => q ≠ p)) :=
    drive.group.trans (if_neg below)
  have standing : d.standing = .racing := (if_neg below).trans racing
  have distance : d.distance = c.distance + ahead := min_eq_left short.le
  have clock : u.shownTime = s.raceClock := by
    rw [State.shownTime_after (by rw [race]; exact after), rest]
    rfl
  have ack : u.reportAck p = ⟨.racing, d.floorGate.lap, u.position p, d.status, d.sticky, c.penalty,
      d.distance, s.raceClock, s.raceClock⟩ := by
    rw [State.reportAck_of own, State.currentLap_of_not_finished _ (by rw [standing]; rfl), standing, clock]
    rfl
  refine ⟨u.responsePlaced p (.report (u.reportAck p)), d, u.reportAck p,
    congrArg _ (State.grant_ends granted done), ?_, own, fun q other => drive.others q other, ?_, within,
    List.prefix_append _ _, group, ?_, ack, gates, crossed, fun order q => ?_⟩
  · generalize u.reportAck p = response
    rw [rest]
    rfl
  · rw [← standing.trans racing.symm, ← distance]
    rfl
  · refine State.grantFrame_of_notices granted done drive.same (fun idle => ?_) ?_ ?_
    · rw [race] at idle
      exact idle
    · rw [rest]; rfl
    · rw [rest]; rfl
  · have told := drive.ports (nodup ((s.requestTaken_sameRace p).keepsOrder.sound order)) q
    rw [forwardNotices_short p c _ q _ below] at told
    exact State.grant_sameNotices _ told (s.requestTaken_link p q) (s.requestTaken_sameNotices p q)

/-! ### The end tests after a finish (R32, R84) -/

/-- Where the entry into RESULTS leaves a car in its slot, the race has not been released: its settings and its
clock stand (R36, R40). -/
theorem State.CameToResults.kept {s t : State} {reason : Reason} {p : Port} (h : s.CameToResults reason t)
    (car : t.car p ≠ none) : t.race.settings = s.race.settings ∧ t.raceClock = s.raceClock ∧
      t.race.phase.afterGreen = true := by
  obtain ⟨u, entered, stays, released⟩ := h
  by_cases awaited : s.SomeAwaited
  · rw [stays awaited, entered.race]
    exact ⟨rfl, entered.clock.1, rfl⟩
  · exact absurd ((released awaited).cars p) car

/-- Where the end tests leave a car in its slot, the race still shows its settings and its clock. -/
theorem State.EndTested.kept {s t : State} {p : Port} (h : s.EndTested true t)
    (running : s.race.phase.running = true) (car : t.car p ≠ none) :
    t.race.settings = s.race.settings ∧ t.raceClock = s.raceClock ∧ t.race.phase.afterGreen = true := by
  by_cases runs : s.SomeRunning
  swap
  · by_cases finished : ∃ q : Port, s.carState q = .finished
    · exact (h.allFinished runs finished).kept car
    · exact (h.allRetired runs (not_exists.mp finished)).kept car
  by_cases votes : s.eligibleCount < 2 * s.voteCount
  · exact (h.aborted runs votes).kept car
  have votes := Nat.not_lt.mp votes
  by_cases green : s.race.phase = .green
  · rcases Nat.eq_zero_or_pos s.race.settings.closingWindow with shut | window
    · exact (h.closed runs votes rfl green shut).kept car
    · rw [(h.finishing runs votes rfl green window).1]
      exact ⟨rfl, rfl, rfl⟩
  · rw [h.goesOn runs votes (.inr green)]
    exact ⟨rfl, rfl, Phase.afterGreen_of_running running⟩

/-- A count of cars depends on the test of each car alone. -/
theorem State.countCars_congr {s t : State} {test : Standing → Bool}
    (same : ∀ q : Port, (t.car q).map (fun c => test c.standing) = (s.car q).map fun c => test c.standing) :
    t.countCars test = s.countCars test := by
  unfold State.countCars Bank.count
  refine List.countP_congr fun q _ => ?_
  have here : (t.cars.get q).map (fun c => test c.standing) = (s.cars.get q).map fun c => test c.standing :=
    same q
  cases before : s.cars.get q <;> cases after : t.cars.get q <;> simp_all

/-- A finish leaves the threshold of the abort vote as it was: FINISHED cars count as RACING ones do (R126). -/
theorem State.Forward.thresholdMet {s u : State} {p : Port} {course : Course} {ahead : Nat} {cut : Bool}
    {gates : List Gate} {r : Request} {c : Car} (f : s.Forward p course ahead cut gates r c u)
    (car : s.car p = some c) (racing : c.standing = .racing) : u.thresholdMet = s.thresholdMet := by
  have race : u.race = s.race := by rw [f.rest]
  have eligible : u.eligibleCount = s.eligibleCount := State.countCars_congr fun q => by
    by_cases own : q = p
    · rw [own, f.car, car]
      unfold Car.carried
      split <;> simp [racing, Standing.eligible]
    · rw [f.others q own]
  unfold State.thresholdMet State.voteCount
  rw [eligible, race]

/-! ### A report that reaches F (R81) -/

/-- A car that a forward report has taken to F (R75, R81). -/
theorem Car.carried_finish {course : Course} {laps now ahead : Nat} {cut : Bool} {gates : List Gate}
    {r : Request} {c : Car} (last : (⟨laps + 1, 0⟩ : Gate) ∈ gates)
    (far : course.finish laps ≤ c.distance + ahead)
    (floor : gates.getLastD c.floorGate = ⟨laps + 1, 0⟩) :
    c.carried course laps now ahead cut gates r =
      { c with
        standing := .finished now, distance := course.finish laps, reverseRun := 0
        status := ⟨false, cut, false, false⟩
        sticky := { c.sticky with rateSeen := c.sticky.rateSeen || cut }
        lastReport := now, distanceChange := now
        floorGate := ⟨laps + 1, 0⟩, nextGate := none
        laps := c.laps ++ lapTimes now c.lastLine gates
        lastLine := lastLineAfter now c.lastLine gates
        pose := if r.payload.length = 16 then some ⟨r.payload.drop 4, r.arrival⟩ else c.pose } := by
  have next : course.next laps ⟨laps + 1, 0⟩ = none := if_pos rfl
  unfold Car.carried
  rw [if_pos last, floor, next, min_eq_right far]

/-- A finish, between the two ends of its grant and before its end tests. -/
structure State.Finishes (p : Port) (r : Request) (c : Car) (course : Course) (ahead : Nat) (s u : State)
    (d : Car) (gates : List Gate) : Prop where
  done : performReport p r (s.requestTaken p) =
    (u.endTests true, .report ((u.endTests true).reportAck p))
  drive : (s.requestTaken p).Forward p course ahead (decide (ahead < (reportDelta r.payload).natAbs)) gates
    r c u
  rest : u = { s.requestTaken p with
    cars := u.cars, finishList := s.finishList ++ [⟨p, s.raceClock⟩]
    activeGroup := s.activeGroup.filter (fun x => x ≠ p), ports := u.ports }
  own : u.car p = some d
  car : d = { c with
    standing := .finished s.raceClock
    distance := course.finish s.race.settings.laps, reverseRun := 0
    status := ⟨false, decide (ahead < (reportDelta r.payload).natAbs), false, false⟩
    sticky := { c.sticky with rateSeen := c.sticky.rateSeen || d.status.rateLimited }
    lastReport := s.raceClock, distanceChange := s.raceClock
    floorGate := ⟨s.race.settings.laps + 1, 0⟩, nextGate := none
    laps := d.laps, lastLine := d.lastLine
    pose := if r.payload.length = 16 then some ⟨r.payload.drop 4, r.arrival⟩ else c.pose }
  laps : d.laps.length = s.race.settings.laps
  crossed : c.Crossed course s.race.settings.laps s.raceClock gates d
  ports : s.OrderSound → ∀ q : Port, u.port q = ((s.requestTaken p).port q).offerAll
    ((if q = p then noticeIf c.status.wrongWay (.wrongWay false c.reverseRun) ++
        gateNotices course s.raceClock c.lastLine gates else []) ++
      noticeIf (s.isRacePort q) (.finish p (s.finishList.length + 1) s.raceClock) ++
      moveNotices (s.isRacePort q) q s.runningOrder u.runningOrder)

/-- A granted forward report that reaches F is a finish (R81). -/
theorem State.report_finishes {s : State} {p : Port} {r : Request} {c : Car} {course : Course} {ahead : Nat}
    (free : (s.port p).fenced = false) (running : s.race.phase.running = true) (sound : s.DistancesSound)
    (car : s.car p = some c) (racing : c.standing = .racing) (loaded : s.course = some course)
    (forward : 0 < reportDelta r.payload) (rate : 1 ≤ c.rateLimit)
    (held : ahead = min (reportDelta r.payload).natAbs (c.rateLimit * max 1 (s.raceClock - c.lastReport)))
    (far : course.finish s.race.settings.laps ≤ c.distance + ahead) :
    ∃ (u : State) (d : Car) (gates : List Gate), s.Finishes p r c course ahead u d gates := by
  let v := s.requestTaken p
  have stays : c.standing.isRetired = false := by rw [racing]; rfl
  have done := performReport_accepted (s := v) r ((s.requestTaken_fenced p p).trans free) car (.inr running) stays
  obtain ⟨u, gates, applied, drive, crossed, within, ends, nodup⟩ := State.applyReport_forward (s := v)
    ((s.modifyPort_keepsDistances p _).sound sound) running car racing loaded forward rate held
  rw [if_pos (show course.finish v.race.settings.laps ≤ c.distance + ahead from far)] at applied
  rw [applied] at done
  have last : (⟨v.race.settings.laps + 1, 0⟩ : Gate) ∈ gates := ends.mpr far
  obtain ⟨floor, -⟩ := within.last_gate (sound.course course loaded) (min_eq_right far)
  have final := Car.carried_finish (now := s.raceClock) (r := r)
    (cut := decide (ahead < (reportDelta r.payload).natAbs)) last far floor
  refine ⟨u, _, gates, done, drive, ?_, drive.car, final, ?_, crossed, fun order q => ?_⟩
  · have rest := drive.rest
    have list : v.finishList ++ (if (⟨v.race.settings.laps + 1, 0⟩ : Gate) ∈ gates
        then [(⟨p, v.raceClock⟩ : FinishEntry)] else []) = s.finishList ++ [⟨p, s.raceClock⟩] := by
      rw [if_pos last]
      rfl
    have group : u.activeGroup = s.activeGroup.filter (fun x => x ≠ p) := drive.group.trans (if_pos last)
    rw [list, group] at rest
    exact rest
  · have count := within.laps
    rw [floor] at count
    exact Nat.succ.inj count
  · have told := drive.ports (nodup ((s.requestTaken_sameRace p).keepsOrder.sound order)) q
    rw [forwardNotices_finish p c _ q _ last] at told
    exact told

/-- Settles O29: a finish between the two ends of its grant, with the end tests before its response is taken. -/
theorem firstFinishEntersFinishing : Obligations.FirstFinishEntersFinishing := by
  refine ⟨fun s p r c course ahead granted free running sound car racing loaded forward rate held far => ?_,
    fun s p q r c e course ahead granted free green sound car racing loaded forward rate held far other rival
      runs short window => ?_⟩
  · obtain ⟨u, d, gates, h⟩ := State.report_finishes free running sound car racing loaded forward rate held far
    have race : u.race = s.race := by rw [h.rest]; rfl
    have clock : u.raceClock = s.raceClock := by rw [h.rest]; rfl
    have tested := u.endTests_spec true
    refine ⟨u, u.endTests true, d, gates, (u.endTests true).reportAck p,
      congrArg _ (State.grant_ends granted h.done), h.rest, h.own, fun x away => h.drive.others x away, h.car,
      h.laps, h.crossed, h.drive.same, h.ports, tested, fun stays => ?_⟩
    obtain ⟨settings, time, after⟩ := tested.kept (p := p) (by rw [race]; exact running) (by rw [stays]; simp)
    have lap : (u.endTests true).currentLap d = s.race.settings.laps := by
      unfold State.currentLap
      rw [h.car, settings, race]
      rfl
    rw [State.reportAck_of stays, lap, State.shownTime_after after, time, clock, h.car]
    rfl
  · have running : s.race.phase.running = true := by rw [green]; rfl
    obtain ⟨u, d, gates, h⟩ := State.report_finishes free running sound car racing loaded forward rate held far
    have race : u.race = s.race := by rw [h.rest]; rfl
    have votes : u.thresholdMet = false := (h.drive.thresholdMet (s := s.requestTaken p) car racing).trans short
    have tests : u.endTests true = u.enterFinishing :=
      State.endTests_first_finish ((h.drive.others q other).trans rival) runs votes (by rw [race]; exact green)
        (by rw [race]; exact window)
    have done := h.done
    rw [tests] at done
    have own : u.enterFinishing.car p = some d := h.own
    have entered : u.enterFinishing = { s.requestTaken p with
        cars := u.cars
        race := { s.race with phase := .finishing, closingWindow := some s.race.settings.closingWindow }
        finishList := s.finishList ++ [⟨p, s.raceClock⟩]
        activeGroup := s.activeGroup.filter (fun x => x ≠ p), ports := u.enterFinishing.ports } := by
      have rest := h.rest
      have only : u.enterFinishing = { u with
          race := { u.race with phase := .finishing, closingWindow := some u.race.settings.closingWindow }
          ports := u.enterFinishing.ports } := rfl
      rw [race] at only
      generalize u.enterFinishing = f at only
      rw [only, rest]
    have lap : u.enterFinishing.currentLap d = s.race.settings.laps := by
      unfold State.currentLap
      rw [h.car, entered]
      rfl
    have clock : u.enterFinishing.shownTime = s.raceClock := by
      rw [entered]
      rfl
    have ack : u.enterFinishing.reportAck p = ⟨.finished, s.race.settings.laps, u.enterFinishing.position p,
        d.status, d.sticky, c.penalty, d.distance, d.distanceChange, s.raceClock⟩ := by
      rw [State.reportAck_of own, lap, clock, h.car]
      rfl
    have told : ∀ x : Port, ((s.requestTaken p).port x).SameButNotices (u.enterFinishing.port x) := fun x =>
      (h.drive.same x).trans ((State.notifyPhase_only (.changed .finishing .none) (u.modifyRace fun r =>
        { r with phase := .finishing, closingWindow := some r.settings.closingWindow })).ports x)
    refine ⟨u.enterFinishing.responsePlaced p (.report (u.enterFinishing.reportAck p)), d,
      u.enterFinishing.reportAck p, congrArg _ (State.grant_ends granted done), ?_, own,
      fun x away => h.drive.others x away, ?_, ?_, ?_, ?_, h.laps, ?_, ?_, ?_, ack⟩
    · generalize u.enterFinishing.reportAck p = response
      generalize u.enterFinishing = f at entered
      rw [entered]
      rfl
    · rw [h.car]
    · rw [h.car]
    · rw [h.car]
    · rw [h.car]
    · rw [h.car]
    · rw [h.car]
    · refine State.grantFrame_of_notices granted done told (fun idle => ?_) ?_ ?_
      · rw [entered] at idle
        exact absurd idle (by simp)
      · rw [entered]; rfl
      · rw [entered]; rfl

end Sys2Proof.Machine
end

section
/-! PROOF. The choice of the arbiter (R61), and the commands that are not due (log 1). -/
namespace Sys2Proof.Machine

/-! ### The choice of the arbiter (R61) -/

/-- The arbiter's order looks at every port. -/
theorem mem_arbiterOrder : ∀ pointer q : Port, q ∈ arbiterOrder pointer := by decide

/-- The arbiter's order is the upward distance from the port after the pointer. -/
theorem arbiterOrder_ascending : ∀ pointer : Port,
    (arbiterOrder pointer).Pairwise fun p q => (p - pointer - 1).val < (q - pointer - 1).val := by decide

/-- What is found first in a list in order of a rank has the least rank of all that may be found there. -/
theorem find?_least {α : Type} {rank : α → Nat} {test : α → Bool} {l : List α} {x y : α}
    (ordered : l.Pairwise fun a b => rank a < rank b) (found : l.find? test = some x) (member : y ∈ l)
    (holds : test y = true) : rank x ≤ rank y := by
  obtain ⟨-, before, after, rfl, skipped⟩ := List.find?_eq_some_iff_append.mp found
  rcases List.mem_append.mp member with passed | later
  · have misses := skipped y passed
    rw [holds] at misses
    exact absurd misses (by decide)
  · rcases List.mem_cons.mp later with rfl | behind
    · exact le_refl _
    · exact (List.rel_of_pairwise_cons (List.pairwise_append.mp ordered).2.1 behind).le

theorem State.arbiterChoice_spec {s : State} {p : Port} (chosen : s.arbiterChoice = some p) :
    (s.port p).raceRequest.isSome = true ∧ ∀ q : Port, (s.port q).raceRequest.isSome = true →
      (p - s.raaPointer - 1).val ≤ (q - s.raaPointer - 1).val :=
  ⟨List.find?_some (p := fun q => (s.port q).raceRequest.isSome) chosen, fun q waits =>
    find?_least (rank := fun q : Port => (q - s.raaPointer - 1).val) (arbiterOrder_ascending s.raaPointer)
      chosen (mem_arbiterOrder s.raaPointer q) waits⟩

theorem State.arbiterChoice_none {s : State} (idle : s.arbiterChoice = none) (q : Port) :
    (s.port q).raceRequest = none := by
  have misses := List.find?_eq_none.mp idle q (mem_arbiterOrder s.raaPointer q)
  simpa using misses

/-! ### Grants and answers with nothing to perform (log 1) -/

/-- There is no grant of a kind that the arbiter's choice does not wait for. -/
theorem State.granted_none {s : State} {p : Port} {k : RequestKind}
    (other : s.arbiterChoice = some p → ∀ r : Request, (s.port p).raceRequest = some r → r.kind ≠ k) :
    s.granted p k = none := by
  unfold State.granted
  split
  · next chosen =>
    split
    · next r waits => exact if_neg (other chosen r waits)
    · rfl
  · rfl

/-- There is no answer of a kind that does not stand at the head. -/
theorem State.localRequest_none {s : State} {p : Port} {k : RequestKind}
    (other : ∀ r : Request, (s.port p).head = some (.request r) → r.kind ≠ k) :
    s.localRequest p k = none := by
  unfold State.localRequest
  split
  · next r head => exact if_neg (other r head)
  · rfl
  · rfl

/-- A grant that the arbiter does not make leaves the state. -/
theorem exec_not_granted {s : State} {p : Port} {k : RequestKind} {c : Instr}
    (listed : (k, c) ∈ raceRequests p) (none : s.granted p k = none) : exec c s = .next s := by
  have stays := fun perform => congrArg (Host.Outcome.next (φ := Fault) (ρ := Refusal))
    (State.grant_none (perform := perform) none)
  simp only [raceRequests, List.mem_cons, Prod.mk.injEq, List.not_mem_nil, or_false] at listed
  rcases listed with ⟨rfl, rfl⟩ | ⟨rfl, rfl⟩ | ⟨rfl, rfl⟩ | ⟨rfl, rfl⟩ | ⟨rfl, rfl⟩ | ⟨rfl, rfl⟩ |
    ⟨rfl, rfl⟩ | ⟨rfl, rfl⟩ | ⟨rfl, rfl⟩ | ⟨rfl, rfl⟩ | ⟨rfl, rfl⟩ | ⟨rfl, rfl⟩ | ⟨rfl, rfl⟩ |
    ⟨rfl, rfl⟩ | ⟨rfl, rfl⟩
  case inr.inl | inr.inr.inr.inr.inl =>
    show Host.Outcome.next _ = _
    rw [none]
  all_goals exact stays _

/-- An answer that is not at the head leaves the state. -/
theorem exec_not_answered {s : State} {p : Port} {k : RequestKind} {c : Instr}
    (listed : (k, c) ∈ localRequests p) (none : s.localRequest p k = none) : exec c s = .next s := by
  have stays := fun perform => congrArg (Host.Outcome.next (φ := Fault) (ρ := Refusal))
    (State.answer_none (perform := perform) none)
  simp only [localRequests, List.mem_cons, Prod.mk.injEq, List.not_mem_nil, or_false] at listed
  rcases listed with ⟨rfl, rfl⟩ | ⟨rfl, rfl⟩ | ⟨rfl, rfl⟩ | ⟨rfl, rfl⟩
  case inr.inr.inl =>
    show Host.Outcome.next (State.answerSetPush p s) = _
    unfold State.answerSetPush
    rw [none]
  all_goals exact stays _

theorem State.answerUnknown_not_head {s : State} {p : Port}
    (other : ∀ (kind : Byte) (arrival : Nat), (s.port p).head ≠ some (.unknown kind arrival)) :
    s.answerUnknown p = s := by
  unfold State.answerUnknown
  split
  · next kind arrival head => exact absurd head (other kind arrival)
  · rfl
  · rfl

/-! ### Expiries before their time (log 1) -/

theorem State.entryWindowDue_waits {s : State}
    (waits : s.race.phase = .forming → ∀ passed : Nat, s.race.entryWindow = some passed →
      passed < s.race.settings.entryWindow) : s.entryWindowDue = false := by
  rw [← Bool.not_eq_true, State.entryWindowDue_iff]
  rintro ⟨forming, passed, window, ran⟩
  exact absurd ran (Nat.not_le.mpr (waits forming passed window))

theorem State.voteDue_waits {s : State} {p : Port}
    (waits : s.race.phase.running = true → ∀ castTime : Nat, s.race.votes.get p = some castTime →
      s.raceClock < castTime + 10000) : s.voteDue p = false := by
  unfold State.voteDue
  cases running : s.race.phase.running with
  | false => rfl
  | true =>
    cases vote : s.race.votes.get p with
    | none => rfl
    | some castTime => exact decide_eq_false (Nat.not_le.mpr (waits running castTime vote))

theorem State.voteExpiry_waits {s : State} {p : Port} (waits : s.voteDue p = false) : s.voteExpiry p = s := by
  unfold State.voteExpiry
  rw [waits]
  rfl

/-- A race limit before its time leaves the state (log 4). -/
theorem exec_raceLimit_early {s : State} (nothing : s.NothingDue)
    (early : ¬(s.race.phase.running = true ∧ s.race.settings.raceLimit ≤ s.raceClock + 1)) :
    exec .raceLimit s = .next s := by
  have short : s.atLimit ≠ true := by
    unfold State.atLimit
    rw [ne_eq, Bool.and_eq_true, decide_eq_true_iff]
    exact early
  show Host.Outcome.next (if s.takeDue.atLimit then s.takeDue.limitTick else s) = _
  rw [State.takeDue_nothing nothing, if_neg short]

/-- Settles O10: the choice is the first of the arbiter's order, and a command that is not due takes the branch
of its definition that leaves the state. -/
theorem arbiterGrantsNextInOrder : Obligations.ArbiterGrantsNextInOrder := by
  refine ⟨fun s => ⟨fun p chosen => State.arbiterChoice_spec chosen, State.arbiterChoice_none⟩,
    fun s p k c listed other => exec_not_granted listed (State.granted_none other),
    fun s p k c listed other => exec_not_answered listed (State.localRequest_none other),
    fun s p other => congrArg _ (State.answerUnknown_not_head other), fun s => ⟨fun waits => ?_,
      fun waits => ?_, fun waits => ?_, fun waits => ?_, fun waits => ?_, exec_raceLimit_early,
      fun p => ⟨fun waits => ?_, fun waits => ?_, fun waits => ?_, fun waits => ?_⟩⟩⟩
  · exact congrArg Host.Outcome.next (State.entryWindowExpiry_waits (State.entryWindowDue_waits waits))
  · exact congrArg Host.Outcome.next (if_neg waits)
  · exact congrArg Host.Outcome.next (if_neg waits)
  · exact congrArg Host.Outcome.next (if_neg waits)
  · exact congrArg Host.Outcome.next (if_neg waits)
  · exact congrArg Host.Outcome.next (State.voteExpiry_waits (State.voteDue_waits waits))
  · exact congrArg Host.Outcome.next (if_neg waits)
  · exact congrArg Host.Outcome.next (if_neg waits)
  · exact congrArg Host.Outcome.next (if_neg waits)

end Sys2Proof.Machine
end

section
/-! PROOF. What the race's operations may do to the ports besides the two ends of a grant: offer notices, and
start or stop push timers where the race leaves IDLE or returns to it (R156, R160). -/
namespace Sys2Proof.Machine

/-! ### Offering notices, and returning to IDLE -/

/-- The ports are offered notices and nothing else, and the race neither leaves IDLE nor returns to it. -/
structure State.TellsPorts (s t : State) : Prop where
  ports : ∀ q : Port, (s.port q).SameButNotices (t.port q)
  idle : t.race.phase = .idle ↔ s.race.phase = .idle
  ticks : t.tickCount = s.tickCount
  commands : t.pending = s.pending

/-- The ports are offered notices, and their push timers go with the race's return to IDLE (R156). -/
structure State.LeavesPorts (s t : State) : Prop where
  ports : ∀ q : Port, (s.port q).SameButNoticesAndPush (t.port q)
  push : (s.race.phase = .idle ↔ t.race.phase = .idle) →
    ∀ q : Port, (t.port q).pushTimer = (s.port q).pushTimer
  pushIdle : s.race.phase ≠ .idle → t.race.phase = .idle → ∀ q : Port, (t.port q).pushTimer = none
  ticks : t.tickCount = s.tickCount
  commands : t.pending = s.pending

theorem State.TellsPorts.refl (s : State) : s.TellsPorts s := ⟨fun _ => rfl, Iff.rfl, rfl, rfl⟩

theorem State.TellsPorts.trans {s t u : State} (h : s.TellsPorts t) (k : t.TellsPorts u) : s.TellsPorts u :=
  ⟨fun q => (h.ports q).trans (k.ports q), k.idle.trans h.idle, k.ticks.trans h.ticks,
    k.commands.trans h.commands⟩

theorem State.TellsPorts.pushTimer {s t : State} (h : s.TellsPorts t) (q : Port) :
    (t.port q).pushTimer = (s.port q).pushTimer := by
  rw [h.ports q]

/-- Notices offered, and what follows them. -/
theorem State.TellsPorts.followed {s t u : State} (h : s.TellsPorts t) (k : t.LeavesPorts u) :
    s.LeavesPorts u where
  ports := fun q => (h.ports q).andPush.trans (k.ports q)
  push := fun both q => (k.push (h.idle.trans both) q).trans (h.pushTimer q)
  pushIdle := fun started => k.pushIdle fun idle => started (h.idle.mp idle)
  ticks := k.ticks.trans h.ticks
  commands := k.commands.trans h.commands

theorem State.LeavesPorts.refl (s : State) : s.LeavesPorts s :=
  ⟨fun _ => rfl, fun _ _ => rfl, fun started idle => absurd idle started, rfl, rfl⟩

theorem State.TellsPorts.leaves {s t : State} (h : s.TellsPorts t) : s.LeavesPorts t :=
  h.followed (.refl t)

theorem State.OnlyNotices.tellsPorts {s t : State} (h : s.OnlyNotices t) : s.TellsPorts t :=
  ⟨h.ports, by rw [h.race], by rw [h.rest], by rw [h.rest]⟩

theorem State.TellsPorts.started {s t : State} (h : s.TellsPorts t) (started : s.race.phase ≠ .idle) :
    t.race.phase ≠ .idle := fun idle => started (h.idle.mp idle)

theorem State.modifyCar_tellsPorts (s : State) (p : Port) (f : Car → Car) : s.TellsPorts (s.modifyCar p f) :=
  ⟨fun _ => rfl, Iff.rfl, rfl, rfl⟩

theorem State.modifyRace_tellsPorts {s : State} {f : RaceRecord → RaceRecord}
    (idle : (f s.race).phase = .idle ↔ s.race.phase = .idle) : s.TellsPorts (s.modifyRace f) :=
  ⟨fun _ => rfl, idle, rfl, rfl⟩

/-- From one phase of a race to another. -/
theorem State.modifyRace_started {s : State} {f : RaceRecord → RaceRecord} (started : s.race.phase ≠ .idle)
    (goes : (f s.race).phase ≠ .idle) : s.TellsPorts (s.modifyRace f) :=
  State.modifyRace_tellsPorts (iff_of_false goes started)

/-- The return to IDLE stops every push timer and tells the present ports (R40, R156). -/
theorem State.returnToIdle_leavesPorts {s : State} (started : s.race.phase ≠ .idle) (reason : Reason) :
    s.LeavesPorts (s.returnToIdle reason) := by
  have back := s.returnToIdle_spec reason
  have idle : (s.returnToIdle reason).race.phase = .idle := by rw [back.race]; rfl
  have port : ∀ q : Port, (s.returnToIdle reason).port q =
      ({ s.port q with pushTimer := none } : PortState).offerAll
        (noticeIf (s.isPresentPort q) (.phase (.changed .idle reason) s.race.number)) := fun q =>
    (back.ports q).trans (PortState.offerIf_eq_offerAll _ _ _)
  refine ⟨fun q => ?_, fun both => absurd (both.mpr idle) started, fun _ _ q => ?_, back.clock.2, back.others.1⟩
  · have stopped : (s.port q).SameButNoticesAndPush { s.port q with pushTimer := none } := rfl
    rw [port]
    exact stopped.trans (PortState.offerAll_same _ _).andPush
  · rw [port, PortState.offerAll_same]

/-! ### Entries and withdrawals (R21, R24, R25, R47, R52) -/

theorem State.enterGrid_tellsPorts {s : State} (started : s.race.phase ≠ .idle) : s.TellsPorts s.enterGrid :=
  (State.modifyRace_started started (by simp)).trans (State.notifyPhase_only _ _).tellsPorts

theorem State.entryWindowExpiry_leavesPorts (s : State) : s.LeavesPorts s.entryWindowExpiry := by
  unfold State.entryWindowExpiry
  split
  · next due =>
    have started : s.race.phase ≠ .idle := by rw [State.entryWindowDue_forming due]; decide
    split
    · exact (State.enterGrid_tellsPorts started).leaves
    · exact State.returnToIdle_leavesPorts started _
  · exact .refl s

theorem State.withdraw_tellsPorts (s : State) (p : Port) (reason : Reason) :
    s.TellsPorts (s.withdraw p reason) := by
  cases car : s.car p with
  | none => rw [State.withdraw_none reason car]; exact .refl s
  | some c =>
    have removed : s.TellsPorts (s.removeEntry p c.entryPosition) := ⟨fun _ => rfl, Iff.rfl, rfl, rfl⟩
    exact removed.trans (State.withdraw_only reason car).tellsPorts

theorem State.withdrawEach_tellsPorts (reason : Reason) (l : List Port) (s : State) :
    s.TellsPorts (s.withdrawEach l reason) := by
  induction l generalizing s with
  | nil => exact .refl s
  | cons p rest ih => exact (s.withdraw_tellsPorts p reason).trans (ih _)

theorem State.loadCourse_tellsPorts (s : State) (p : Port) (c : Course) : s.TellsPorts (s.loadCourse p c) := by
  have loaded : s.TellsPorts { s with course := some c } := ⟨fun _ => rfl, Iff.rfl, rfl, rfl⟩
  unfold State.loadCourse
  dsimp only
  split
  · exact loaded
  · exact loaded.trans (State.withdrawEach_tellsPorts _ _ _)

theorem State.enterCar_tellsPorts (s : State) (p : Port) : s.TellsPorts (s.enterCar p) := by
  have entered : s.TellsPorts (s.appendEntry p) := ⟨fun _ => rfl, Iff.rfl, rfl, rfl⟩
  exact entered.trans (State.notifyRace_only _ _).tellsPorts

/-- The opening of a race starts the push timers and tells of the race (R21, R156). -/
theorem State.openRace_leavesPorts {s : State} (idle : s.race.phase = .idle) (p : Port) :
    s.LeavesPorts (s.openRace p) := by
  have forming : (s.openRace p).race.phase ≠ .idle := by simp [State.openRace_eq, State.opened]
  have told : ((s.opened p).appendEntry p).OnlyNotices (s.openRace p) := by
    rw [State.openRace_eq]
    exact (State.notifyPhase_only _ _).trans (State.notifyRace_only _ _)
  refine ⟨fun q => ?_, fun both => absurd (both.mp idle) forming, fun started => absurd idle started, rfl, rfl⟩
  have start : (s.port q).SameButNoticesAndPush ((s.opened p).port q) := by
    rw [State.opened_port, PortState.startPush_same]
    rfl
  exact start.trans (told.ports q).andPush

theorem State.handover_leavesPorts {s : State} (started : s.race.phase ≠ .idle) :
    s.LeavesPorts s.handover := by
  unfold State.handover
  split
  · exact ((State.modifyRace_tellsPorts Iff.rfl).trans (State.notifyPhase_only _ _).tellsPorts).leaves
  · exact State.returnToIdle_leavesPorts started _

theorem State.enterCountdown_tellsPorts {s : State} (started : s.race.phase ≠ .idle) :
    s.TellsPorts s.enterCountdown :=
  (State.modifyRace_started started (by simp)).trans s.enterCountdown_only.tellsPorts

theorem State.holdTest_tellsPorts (s : State) : s.TellsPorts s.holdTest := by
  obtain ⟨slot, timer, only⟩ := s.holdTest_only
  exact (State.modifyRace_tellsPorts Iff.rfl).trans only.tellsPorts

theorem State.gridTests_leavesPorts {s : State} (started : s.race.phase ≠ .idle) :
    s.LeavesPorts s.gridTests := by
  unfold State.gridTests
  split_ifs
  · exact State.returnToIdle_leavesPorts started _
  · exact (State.enterCountdown_tellsPorts started).leaves
  · exact .refl s

theorem State.countdownTests_leavesPorts {s : State} (started : s.race.phase ≠ .idle) :
    s.LeavesPorts s.countdownTests := by
  unfold State.countdownTests
  split
  · exact State.returnToIdle_leavesPorts started _
  · exact s.holdTest_tellsPorts.leaves

theorem State.withdrawAndTest_leavesPorts {s : State} (started : s.race.phase ≠ .idle) (p : Port)
    (reason : Reason) : s.LeavesPorts (s.withdrawAndTest p reason) := by
  have gone := s.withdraw_tellsPorts p reason
  have goes := gone.started started
  refine gone.followed ?_
  unfold State.withdrawAndTest
  dsimp only
  split
  · split
    · exact State.handover_leavesPorts goes
    · exact .refl _
  · exact State.gridTests_leavesPorts goes
  · exact State.countdownTests_leavesPorts goes
  all_goals exact .refl _

theorem State.declareReady_tellsPorts {s : State} (started : s.race.phase ≠ .idle) (p : Port) :
    s.TellsPorts (s.declareReady p) := by
  obtain ⟨rest, told, stays⟩ := s.declareReady_frame p
  exact ⟨told, iff_of_false (fun idle => started (stays idle)) started, by rw [rest], by rw [rest]⟩

/-! ### Results, votes and retirements (R32, R36, R37, R54, R121) -/

theorem State.releaseTest_leavesPorts {s : State} (started : s.race.phase ≠ .idle) :
    s.LeavesPorts s.releaseTest := by
  unfold State.releaseTest
  split
  · exact State.returnToIdle_leavesPorts started _
  · exact .refl s

theorem State.release_leavesPorts {s : State} (started : s.race.phase ≠ .idle) (p : Port) :
    s.LeavesPorts (s.release p) :=
  (State.modifyRace_tellsPorts Iff.rfl).followed (State.releaseTest_leavesPorts started)

theorem State.enterResults_leavesPorts {s : State} (started : s.race.phase ≠ .idle) (reason : Reason) :
    s.LeavesPorts (s.enterResults reason) := by
  have stopped : s.TellsPorts ((s.stopRace reason).openResults reason) :=
    ⟨fun _ => rfl, iff_of_false (by simp [State.openResults, State.stopRace]) started, rfl, rfl⟩
  have told := stopped.trans (State.notifyPhase_only (.changed .results reason) _).tellsPorts
  exact told.followed (State.releaseTest_leavesPorts (told.started started))

theorem State.enterFinishing_tellsPorts {s : State} (started : s.race.phase ≠ .idle) :
    s.TellsPorts s.enterFinishing :=
  (State.modifyRace_started started (by simp)).trans (State.notifyPhase_only _ _).tellsPorts

theorem State.endTests_leavesPorts {s : State} (started : s.race.phase ≠ .idle) (afterFinish : Bool) :
    s.LeavesPorts (s.endTests afterFinish) := by
  unfold State.endTests
  split_ifs
  iterate 4 exact State.enterResults_leavesPorts started _
  · exact (State.enterFinishing_tellsPorts started).leaves
  · exact .refl s

theorem State.retire_leavesPorts {s : State} (started : s.race.phase ≠ .idle) (p : Port) (reason : Reason) :
    s.LeavesPorts (s.retire p reason) := by
  obtain ⟨t, only, ends⟩ := State.retire_spec p reason s
  have retired : s.TellsPorts (s.retiredState p reason) := ⟨fun _ => rfl, Iff.rfl, rfl, rfl⟩
  have told := retired.trans only.tellsPorts
  rw [ends]
  exact told.followed (State.endTests_leavesPorts (told.started started) false)

theorem State.castVote_tellsPorts (s : State) (p : Port) : s.TellsPorts (s.castVote p) := by
  have cast : s.TellsPorts (s.modifyRace fun r => { r with votes := r.votes.set p (some s.raceClock) }) :=
    State.modifyRace_tellsPorts Iff.rfl
  unfold State.castVote
  dsimp only
  split
  · exact cast
  · exact cast.trans (State.notifyVotes_only _).tellsPorts

theorem State.removeVote_tellsPorts (s : State) (p : Port) : s.TellsPorts (s.removeVote p) := by
  have dropped : s.TellsPorts (s.dropVote p) := State.modifyRace_tellsPorts Iff.rfl
  unfold State.removeVote
  split
  · exact dropped.trans (State.notifyVotes_only _).tellsPorts
  · exact .refl s

/-! ### Reports (R67 to R84) -/

theorem State.storePose_tellsPorts (s : State) (p : Port) (r : Request) : s.TellsPorts (s.storePose p r) := by
  rw [State.storePose_spec]
  exact s.modifyCar_tellsPorts p _

theorem State.jumpStart_tellsPorts (s : State) (p : Port) : s.TellsPorts (s.jumpStart p) := by
  unfold State.jumpStart
  split
  · exact .refl s
  · dsimp only
    split
    · exact s.modifyCar_tellsPorts p _
    · exact (s.modifyCar_tellsPorts p _).trans (State.notifyOwn_only _ _ _).tellsPorts

theorem State.countdownReport_tellsPorts (s : State) (p : Port) (r : Request) :
    s.TellsPorts (s.countdownReport p r) := by
  unfold State.countdownReport
  split
  · exact (s.jumpStart_tellsPorts p).trans (State.storePose_tellsPorts _ p r)
  · exact s.storePose_tellsPorts p r

theorem State.travelBack_tellsPorts (s : State) (p : Port) (course : Course) (delta : Int) :
    s.TellsPorts (s.travelBack p course delta) := by
  unfold State.travelBack
  split
  · exact .refl s
  · next c _ =>
    have moved := s.modifyCar_tellsPorts p fun _ => c.reverse (course.position c.floorGate) delta
    dsimp only
    split
    · exact (moved.trans (State.modifyCar_tellsPorts _ p _)).trans (State.notifyOwn_only _ _ _).tellsPorts
    · exact moved

theorem State.travelForward_tellsPorts (s : State) (p : Port) (course : Course) (delta : Int) :
    s.TellsPorts (s.travelForward p course delta) := by
  cases car : s.car p with
  | none =>
    unfold State.travelForward
    rw [car]
    exact .refl s
  | some c => exact (s.modifyCar_tellsPorts p _).trans (State.travelForward_only car).tellsPorts

theorem State.finishCar_tellsPorts (s : State) (p : Port) (now : Nat) : s.TellsPorts (s.finishCar p now) := by
  have listed : s.TellsPorts { s.modifyCar p (fun c => { c with standing := .finished now }) with
      finishList := s.finishList ++ [⟨p, now⟩] } := ⟨fun _ => rfl, Iff.rfl, rfl, rfl⟩
  exact listed.trans (State.notifyRace_only _ _).tellsPorts

theorem State.crossGate_tellsPorts (s : State) (p : Port) (now : Nat) (course : Course) (c : Car) (g : Gate) :
    s.TellsPorts (s.crossGate p now course c g) := by
  have floored := s.modifyCar_tellsPorts p fun x =>
    { x with floorGate := g, nextGate := course.next s.race.settings.laps g }
  unfold State.crossGate
  dsimp only
  split
  · exact floored
  · exact floored.trans (State.notifyOwn_only _ _ _).tellsPorts
  · have lapped := (floored.trans (State.modifyCar_tellsPorts _ p (Car.completeLap now))).trans
      (State.notifyOwn_only p (.gate g now (some (now - c.lastLine))) _).tellsPorts
    split
    · exact lapped.trans (State.finishCar_tellsPorts _ p now)
    · exact lapped

theorem State.crossGates_tellsPorts (p : Port) (now : Nat) (course : Course) (turns : Nat) (s : State) :
    s.TellsPorts (s.crossGates p now course turns) := by
  induction turns generalizing s with
  | zero => exact .refl s
  | succ turns ih =>
    unfold State.crossGates
    split
    · exact .refl s
    · next c _ =>
      split
      · exact .refl s
      · next g _ =>
        split
        · exact (s.crossGate_tellsPorts p now course c g).trans (ih _)
        · exact .refl s

theorem State.applyDelta_tellsPorts (s : State) (p : Port) (c : Car) (course : Course) (now : Nat)
    (carried : Int) : s.TellsPorts (s.applyDelta p c course now carried) := by
  have rated := s.modifyCar_tellsPorts p (Car.markRate (decide (c.allowance now < carried.natAbs)))
  unfold State.applyDelta
  dsimp only
  split_ifs
  · exact rated.trans (State.travelBack_tellsPorts _ _ _ _)
  · exact rated.trans ((State.travelForward_tellsPorts _ _ _ _).trans (State.crossGates_tellsPorts _ _ _ _ _))
  · exact rated.trans (State.modifyCar_tellsPorts _ p _)

theorem State.bookReport_tellsPorts (s : State) (p : Port) (now before : Nat) (order : List Port) :
    s.TellsPorts (s.bookReport p now before order) := by
  let booked := s.modifyCar p (Car.booked now before)
  have marked : s.TellsPorts booked := s.modifyCar_tellsPorts p _
  have finished : s.TellsPorts (booked.finishMove p) := ⟨fun _ => rfl, Iff.rfl, rfl, rfl⟩
  have placed : s.TellsPorts (booked.reinsert p) := ⟨fun _ => rfl, Iff.rfl, rfl, rfl⟩
  unfold State.bookReport
  dsimp only
  split
  · exact marked
  · split_ifs
    · exact finished.trans (State.notifyMove_only _ _).tellsPorts
    · exact marked
    · exact placed.trans (State.notifyMove_only _ _).tellsPorts

theorem State.fullApplication_leavesPorts {s : State} (started : s.race.phase ≠ .idle) (p : Port) (r : Request) :
    s.LeavesPorts (s.fullApplication p r) := by
  unfold State.fullApplication
  split
  · next c course _ _ =>
    have stored := ((s.applyDelta_tellsPorts p c course s.raceClock (reportDelta r.payload)).trans
      (State.bookReport_tellsPorts _ p s.raceClock c.distance s.runningOrder)).trans
      (State.storePose_tellsPorts _ p r)
    dsimp only
    split
    · exact stored.followed (State.endTests_leavesPorts (stored.started started) true)
    · exact stored.leaves
  · exact .refl s

theorem State.applyReport_leavesPorts {s : State} (started : s.race.phase ≠ .idle) (p : Port) (r : Request) :
    s.LeavesPorts (s.applyReport p r) := by
  unfold State.applyReport
  split
  · exact (s.countdownReport_tellsPorts p r).leaves
  · exact State.fullApplication_leavesPorts started p r
  · exact State.fullApplication_leavesPorts started p r
  · exact (s.storePose_tellsPorts p r).leaves
  · exact (s.storePose_tellsPorts p r).leaves
  · exact .refl s

end Sys2Proof.Machine
end

section
/-! PROOF. Every race request touches the ports by its answer, its notices and the push timers alone (R61, R156,
R160). -/
namespace Sys2Proof.Machine

/-! ### The performances -/

/-- A refusal changes nothing; what a check lets through is left to say. -/
theorem State.leavesPorts_checked {s : State} {failed : Prop} [Decidable failed] {k : RequestKind}
    {code : ResultCode} {performed : State × Response} (passes : ¬failed → s.LeavesPorts performed.1) :
    s.LeavesPorts (if failed then refuse k code s else performed).1 := by
  split
  · exact .refl s
  · next passed => exact passes passed

theorem performOpenRace_leavesPorts (p : Port) (r : Request) (s : State) :
    s.LeavesPorts (performOpenRace p r s).1 :=
  State.leavesPorts_checked fun _ => State.leavesPorts_checked fun idle =>
    State.openRace_leavesPorts (not_not.mp idle) p

theorem performSetRules_tellsPorts (p : Port) (r : Request) (s : State) :
    s.TellsPorts (performSetRules p r s).1 := by
  unfold performSetRules
  split
  · exact .refl s
  · exact ⟨fun _ => rfl, Iff.rfl, rfl, rfl⟩

theorem performLoadCourse_leavesPorts (p : Port) (r : Request) (s : State) :
    s.LeavesPorts (performLoadCourse p r s).1 := by
  unfold performLoadCourse
  refine State.leavesPorts_checked fun _ => State.leavesPorts_checked fun _ =>
    State.leavesPorts_checked fun _ => State.leavesPorts_checked fun _ => ?_
  split
  · exact .refl s
  · exact (s.loadCourse_tellsPorts p _).leaves

theorem performEnter_leavesPorts (p : Port) (r : Request) (s : State) :
    s.LeavesPorts (performEnter p r s).1 := by
  unfold performEnter
  refine State.leavesPorts_checked fun _ => State.leavesPorts_checked fun _ =>
    State.leavesPorts_checked fun _ => State.leavesPorts_checked fun _ => ?_
  split
  · exact .refl s
  · exact State.leavesPorts_checked fun _ => (s.enterCar_tellsPorts p).leaves

theorem State.setupCar_tellsPorts (s : State) (p : Port) (payload : List Byte) (position : Nat) :
    s.TellsPorts (s.setupCar p payload position) := by
  unfold State.setupCar
  split
  · exact s.modifyCar_tellsPorts p _
  · exact (s.modifyCar_tellsPorts p _).trans (State.notifyRace_only _ _).tellsPorts

theorem performCarSetup_leavesPorts (p : Port) (r : Request) (s : State) :
    s.LeavesPorts (performCarSetup p r s).1 := by
  unfold performCarSetup
  refine State.leavesPorts_checked fun _ => State.leavesPorts_checked fun _ => ?_
  split
  · exact .refl s
  · next c _ =>
    exact State.leavesPorts_checked fun _ => State.leavesPorts_checked fun _ =>
      State.leavesPorts_checked fun _ => (s.setupCar_tellsPorts p r.payload c.entryPosition).leaves

theorem performCloseEntries_leavesPorts (p : Port) (r : Request) (s : State) :
    s.LeavesPorts (performCloseEntries p r s).1 :=
  State.leavesPorts_checked fun _ => State.leavesPorts_checked fun started =>
    State.leavesPorts_checked fun _ => State.leavesPorts_checked fun _ =>
      State.leavesPorts_checked fun _ => (State.enterGrid_tellsPorts started).leaves

theorem performReady_leavesPorts (p : Port) (r : Request) (s : State) :
    s.LeavesPorts (performReady p r s).1 := by
  unfold performReady
  refine State.leavesPorts_checked fun _ => State.leavesPorts_checked fun started => ?_
  split
  · exact .refl s
  · exact State.leavesPorts_checked fun _ => State.leavesPorts_checked fun _ =>
      (State.declareReady_tellsPorts started p).leaves

theorem performLeave_leavesPorts (p : Port) (r : Request) (s : State) :
    s.LeavesPorts (performLeave p r s).1 := by
  unfold performLeave
  refine State.leavesPorts_checked fun _ => ?_
  cases phase : s.race.phase with
  | idle => exact .refl s
  | forming | grid | countdown =>
    dsimp only
    split
    · exact State.withdrawAndTest_leavesPorts (by rw [phase]; decide) p _
    · exact .refl s
  | green | finishing =>
    dsimp only
    split
    · exact .refl s
    · exact State.leavesPorts_checked fun _ => State.retire_leavesPorts (by rw [phase]; decide) p _
  | results =>
    dsimp only
    split
    · exact State.release_leavesPorts (by rw [phase]; decide) p
    · exact .refl s

theorem performReport_leavesPorts (p : Port) (r : Request) (s : State) :
    s.LeavesPorts (performReport p r s).1 := by
  unfold performReport
  refine State.leavesPorts_checked fun _ => State.leavesPorts_checked fun started => ?_
  split
  · exact .refl s
  · exact State.leavesPorts_checked fun _ => State.leavesPorts_checked fun _ =>
      State.applyReport_leavesPorts started p r

theorem performClearFlags_leavesPorts (p : Port) (r : Request) (s : State) :
    s.LeavesPorts (performClearFlags p r s).1 := by
  unfold performClearFlags
  refine State.leavesPorts_checked fun _ => State.leavesPorts_checked fun _ => ?_
  split
  · exact .refl s
  · exact State.leavesPorts_checked fun _ => (s.modifyCar_tellsPorts p _).leaves

theorem performAbortVote_leavesPorts (p : Port) (r : Request) (s : State) :
    s.LeavesPorts (performAbortVote p r s).1 := by
  unfold performAbortVote
  refine State.leavesPorts_checked fun _ => State.leavesPorts_checked fun started => ?_
  split
  · exact .refl s
  · refine State.leavesPorts_checked fun _ => State.leavesPorts_checked fun _ => ?_
    have cast := s.castVote_tellsPorts p
    dsimp only
    split
    · exact cast.followed (State.enterResults_leavesPorts (cast.started started) _)
    · exact cast.leaves

theorem performWithdrawVote_leavesPorts (p : Port) (r : Request) (s : State) :
    s.LeavesPorts (performWithdrawVote p r s).1 :=
  State.leavesPorts_checked fun _ => State.leavesPorts_checked fun _ => State.leavesPorts_checked fun _ =>
    State.leavesPorts_checked fun _ => (s.removeVote_tellsPorts p).leaves

/-! ### The grants (R61) -/

/-- A performance that leaves the ports so, in the frame of its grant. -/
theorem State.grantFrame_of_leavesPorts {s : State} {p : Port} {k : RequestKind} {r : Request}
    {perform : Request → State → State × Response} (granted : s.granted p k = some r)
    (leaves : (s.requestTaken p).LeavesPorts (perform r (s.requestTaken p)).1) :
    s.GrantFrame p (perform r (s.requestTaken p)).2 (s.grant p k perform) :=
  State.grant_frame granted rfl leaves.ports
    (fun both q => (leaves.push both q).trans (s.requestTaken_pushTimer p q)) leaves.pushIdle leaves.ticks
    leaves.commands

/-- A grant, and what its event does to the ports after it. -/
theorem State.GrantFrame.followed {s t u : State} {p : Port} {response : Response}
    (h : s.GrantFrame p response t) (idle : t.race.phase = .idle ↔ s.race.phase = .idle)
    (k : t.LeavesPorts u) (pointer : u.raaPointer = t.raaPointer) : s.GrantFrame p response u where
  own := by
    obtain ⟨requests, responses, rest⟩ := h.own
    rw [k.ports p]
    refine ⟨requests, responses, ?_⟩
    rw [rest]
  others := fun q other => (h.others q other).trans (k.ports q)
  push := fun both q => (k.push (idle.trans both) q).trans (h.push idle.symm q)
  pushIdle := fun started => k.pushIdle fun ended => started (idle.mp ended)
  pointer := pointer.trans h.pointer
  ticks := k.ticks.trans h.ticks
  commands := k.commands.trans h.commands

theorem State.entryWindowExpiry_raaPointer (s : State) : s.entryWindowExpiry.raaPointer = s.raaPointer := by
  unfold State.entryWindowExpiry
  split
  · split <;> rfl
  · rfl

/-- A grant of SET_RULES, with the expiry of the entry window that may follow it (R20). -/
theorem execSetRules_grantFrame {s : State} {p : Port} {r : Request} (granted : s.granted p .setRules = some r) :
    ∃ (t : State) (response : Response), exec (.setRules p) s = .next t ∧ s.GrantFrame p response t := by
  have told := performSetRules_tellsPorts p r (s.requestTaken p)
  have frame := State.grantFrame_of_leavesPorts granted told.leaves
  have idle : (s.grant p .setRules (performSetRules p)).race.phase = .idle ↔ s.race.phase = .idle := by
    rw [State.grant_some granted]
    exact told.idle
  have runs : exec (.setRules p) s =
      .next (if s.rulesRefusal p r = none ∧ (rulesMask r.payload).testBit 2 then
        (s.grant p .setRules (performSetRules p)).entryWindowExpiry
      else s.grant p .setRules (performSetRules p)) := by
    show Host.Outcome.next _ = _
    rw [granted]
  refine ⟨_, (performSetRules p r (s.requestTaken p)).2, runs, ?_⟩
  split
  · exact frame.followed idle (State.entryWindowExpiry_leavesPorts _) (State.entryWindowExpiry_raaPointer _)
  · exact frame

/-- A grant of CAR_SETUP whose reserved byte is zero (R49, R185). -/
theorem execCarSetup_grantFrame {s : State} {p : Port} {r : Request} (granted : s.granted p .carSetup = some r)
    (reserved : RequestKind.carSetup.reservedNonzero r.payload = false) :
    ∃ (t : State) (response : Response), exec (.carSetup p) s = .next t ∧ s.GrantFrame p response t := by
  obtain ⟨kind, -⟩ := State.granted_spec granted
  have runs : exec (.carSetup p) s = .next (s.grant p .carSetup (performCarSetup p)) := by
    show Host.Outcome.next _ = _
    rw [granted]
    exact congrArg _ (State.reportReserved_zero (by rw [kind]; exact reserved))
  exact ⟨_, _, runs, State.grantFrame_of_leavesPorts granted (performCarSetup_leavesPorts p r _)⟩

/-- Settles O11: each race request is a grant whose performance leaves the ports but for notices and push
timers. -/
theorem raceRequestsLeavePortsAlone : Obligations.RaceRequestsLeavePortsAlone := by
  intro s p k r c granted reserved listed
  have plain : ∀ {perform : Request → State → State × Response},
      (∀ u : State, u.LeavesPorts (perform r u).1) → exec c s = .next (s.grant p k perform) →
      ∃ (t : State) (response : Response), exec c s = .next t ∧ s.GrantFrame p response t :=
    fun leaves runs => ⟨_, _, runs, State.grantFrame_of_leavesPorts granted (leaves _)⟩
  simp only [List.mem_cons, Prod.mk.injEq, List.not_mem_nil, or_false] at listed
  rcases listed with ⟨rfl, rfl⟩ | ⟨rfl, rfl⟩ | ⟨rfl, rfl⟩ | ⟨rfl, rfl⟩ | ⟨rfl, rfl⟩ | ⟨rfl, rfl⟩ |
    ⟨rfl, rfl⟩ | ⟨rfl, rfl⟩ | ⟨rfl, rfl⟩ | ⟨rfl, rfl⟩ | ⟨rfl, rfl⟩ | ⟨rfl, rfl⟩ | ⟨rfl, rfl⟩ |
    ⟨rfl, rfl⟩ | ⟨rfl, rfl⟩
  · exact plain (performOpenRace_leavesPorts p r) rfl
  · exact execSetRules_grantFrame granted
  · exact plain (performLoadCourse_leavesPorts p r) rfl
  · exact plain (performEnter_leavesPorts p r) rfl
  · exact execCarSetup_grantFrame granted reserved
  · exact plain (performCloseEntries_leavesPorts p r) rfl
  · exact plain (performReady_leavesPorts p r) rfl
  · exact plain (performLeave_leavesPorts p r) rfl
  · exact plain (performReport_leavesPorts p r) rfl
  · exact plain (performClearFlags_leavesPorts p r) rfl
  · exact plain (fun u => by rw [performSnapshot_state]; exact .refl u) rfl
  · exact plain (fun u => by rw [performReadLaps_state]; exact .refl u) rfl
  · exact plain (fun u => by rw [performReadResults_state]; exact .refl u) rfl
  · exact plain (performAbortVote_leavesPorts p r) rfl
  · exact plain (performWithdrawVote_leavesPorts p r) rfl

end Sys2Proof.Machine
end

section
/-! PROOF. Placing by D (R94, R98), the results table (R105 to R108), and the requests that read it and the lap
lists (R109 to R111). -/
namespace Sys2Proof.Machine

/-! ### Placing by D (R94, R98) -/

/-- A slot put behind the last one that satisfies a test splits the list there: no later slot satisfies the
test, and the one just ahead, if any, does. -/
theorem insertAfterLast_split (test : Port → Bool) (p : Port) (l : List Port) :
    ∃ ahead behind : List Port, l = ahead ++ behind ∧ insertAfterLast test p l = ahead ++ p :: behind ∧
      (∀ q ∈ behind, test q = false) ∧ (∀ q, ahead.getLast? = some q → test q = true) := by
  induction l with
  | nil => exact ⟨[], [], rfl, rfl, by simp, by simp⟩
  | cons x rest ih =>
    unfold insertAfterLast
    split
    · next reached =>
      obtain ⟨ahead, behind, rfl, placed, fails, last⟩ := ih
      refine ⟨x :: ahead, behind, rfl, by rw [placed]; rfl, fails, ?_⟩
      cases ahead with
      | nil =>
        rintro q ⟨⟩
        have fail : behind.any test = false := List.any_eq_false.mpr fun r member => by simp [fails r member]
        simpa [fail] using reached
      | cons y more => exact fun q found => last q (by rwa [List.getLast?_cons_cons] at found)
    · next fail =>
      exact ⟨[], x :: rest, rfl, rfl, by simpa using fail, by simp⟩

/-- Settles O23: the test of the placing is that D is at least the placed car's. -/
theorem placingByDistance : Obligations.PlacingByDistance := by
  intro s p group
  obtain ⟨ahead, behind, whole, placed, less, last⟩ :=
    insertAfterLast_split (fun q => decide (s.distance p ≤ s.distance q)) p group
  exact ⟨ahead, behind, whole, placed, fun q member => Nat.lt_of_not_le (of_decide_eq_false (less q member)),
    fun q found => of_decide_eq_true (last q found)⟩

/-! ### The order of total times (R107) -/

/-- The finish list in order of total time is its insertion sort, which puts an entry ahead of its equals. -/
theorem State.byTotal_eq_insertionSort (s : State) (l : List FinishEntry) :
    s.byTotal l = l.insertionSort fun e f => s.totalTime e ≤ s.totalTime f := by
  have insert : ∀ (e : FinishEntry) (m : List FinishEntry),
      s.insertByTotal e m = m.orderedInsert (fun e f => s.totalTime e ≤ s.totalTime f) e := fun e m => by
    induction m with
    | nil => rfl
    | cons f rest ih => rw [State.insertByTotal, ih, List.orderedInsert_cons]
  induction l with
  | nil => rfl
  | cons e rest ih => rw [State.byTotal, insert, ih, List.insertionSort_cons]

theorem State.byTotal_perm (s : State) (l : List FinishEntry) : (s.byTotal l).Perm l := by
  rw [s.byTotal_eq_insertionSort]
  exact List.perm_insertionSort _ l

theorem State.byTotal_pairwise (s : State) (l : List FinishEntry) :
    (s.byTotal l).Pairwise fun e f => s.totalTime e ≤ s.totalTime f := by
  have total : Std.Total fun e f : FinishEntry => s.totalTime e ≤ s.totalTime f :=
    ⟨fun e f => Nat.le_total _ _⟩
  have trans : IsTrans FinishEntry fun e f => s.totalTime e ≤ s.totalTime f := ⟨fun _ _ _ => Nat.le_trans⟩
  rw [s.byTotal_eq_insertionSort]
  exact List.pairwise_insertionSort _ l

/-- Entries of one total time stand in finish-list order: they are a sublist of the finish list in order, so
the sort keeps them as a sublist, and as a permutation it adds none (R107). -/
theorem State.byTotal_filter (s : State) (l : List FinishEntry) (total : Nat) :
    (s.byTotal l).filter (fun e => s.totalTime e = total) = l.filter (fun e => s.totalTime e = total) := by
  have same : (l.filter fun e => s.totalTime e = total).Pairwise
      fun e f => s.totalTime e ≤ s.totalTime f :=
    List.pairwise_of_forall_mem_list fun e he f hf => by
      have he := of_decide_eq_true (List.mem_filter.mp he).2
      have hf := of_decide_eq_true (List.mem_filter.mp hf).2
      exact (he.trans hf.symm).le
  have kept : (l.filter fun e => s.totalTime e = total).Sublist (s.byTotal l) := by
    rw [s.byTotal_eq_insertionSort]
    exact List.sublist_insertionSort same List.filter_sublist
  have kept := kept.filter fun e => decide (s.totalTime e = total)
  rw [List.filter_filter] at kept
  simp only [Bool.and_self] at kept
  exact (kept.eq_of_length ((s.byTotal_perm l).filter _).length_eq.symm).symm

/-! ### The entries of the results table (R105, R106) -/

/-- The table holds one entry for each slot of the classification, counted from 1, where each has a car. -/
theorem State.buildResults_entries {s : State} (reason : Reason)
    (cars : ∀ q ∈ s.classification, s.isRacePort q = true) :
    (s.buildResults reason).entries.map some =
      s.classification.zipIdx.map fun e => (s.car e.1).map fun c => c.result e.1 (e.2 + 1) := by
  refine List.map_filterMap_some_eq_filter_map_isSome.trans (List.filter_eq_self.mpr ?_)
  refine List.forall_mem_map.mpr fun e member => ?_
  rw [Option.isSome_map]
  exact cars e.1 (List.fst_mem_of_mem_zipIdx member)

theorem State.buildResults_slots {s : State} (reason : Reason)
    (cars : ∀ q ∈ s.classification, s.isRacePort q = true) :
    (s.buildResults reason).entries.map ResultEntry.slot = s.classification := by
  refine List.map_injective_iff.mpr (Option.some_injective Port) ?_
  calc
    _ = ((s.buildResults reason).entries.map some).map (Option.map ResultEntry.slot) := by simp
    _ = s.classification.zipIdx.map fun e => some e.1 := by
      rw [State.buildResults_entries reason cars, List.map_map]
      refine List.map_congr_left fun e member => ?_
      obtain ⟨c, car⟩ := Option.isSome_iff_exists.mp (cars e.1 (List.fst_mem_of_mem_zipIdx member))
      simp [car, Car.result]
    _ = s.classification.map some := by
      rw [← List.zipIdx_map_fst 0 s.classification, List.map_map]
      simp

theorem State.buildResults_getElem? {s : State} {reason : Reason}
    (cars : ∀ q ∈ s.classification, s.isRacePort q = true) {i : Nat} {e : ResultEntry}
    (found : (s.buildResults reason).entries[i]? = some e) :
    ∃ c : Car, s.car e.slot = some c ∧ e = c.result e.slot (i + 1) := by
  have same := congrArg (·[i]?) (State.buildResults_entries reason cars)
  simp only [List.getElem?_map, found, List.getElem?_zipIdx, Option.map_map] at same
  obtain ⟨q, -, entry⟩ := Option.map_eq_some_iff.mp same.symm
  obtain ⟨c, car, rfl⟩ := Option.map_eq_some_iff.mp entry
  exact ⟨c, car, by simp [Car.result]⟩

/-- From the green on the classification is the running order with its FINISHED group ranked (R106). -/
theorem State.classification_perm {s : State} (after : s.race.phase.afterGreen = true) :
    s.classification.Perm s.runningOrder := by
  rw [State.runningOrder_after after]
  exact (((s.byTotal_perm _).map _).append_right _).append_right _

theorem State.OrderSound.classified {s : State} (h : s.OrderSound)
    (after : s.race.phase.afterGreen = true) : ∀ q ∈ s.classification, s.isRacePort q = true :=
  fun q member => (h.complete q).mp ((State.classification_perm after).mem_iff.mp member)

/-! ### The fields of an entry (R108) -/

theorem bestLap_eq_min? (laps : List Nat) : bestLap laps = laps.min? := by
  induction laps with
  | nil => rfl
  | cons lap rest ih =>
    rw [bestLap, ih, List.min?_cons]
    cases rest.min? <;> rfl

/-- A car that stops keeps all but its standing. -/
theorem Car.stop_eq (c : Car) : c.stop = { c with standing := c.standing.stop } := by
  unfold Car.stop Standing.stop
  split <;> rfl

theorem Standing.stop_state (x : Standing) :
    x.stop.state = if x.running then .stopped else x.state :=
  apply_ite Standing.state _ _ _

theorem Standing.finishTime_of_state {x : Standing} (other : x.state ≠ .finished) : x.finishTime = none := by
  cases x with
  | finished time => exact absurd rfl other
  | entered | ready | racing | coasting | stopped | retired reason time => rfl

theorem Standing.retired_of_state {x : Standing} (other : x.state ≠ .retired) :
    x.retireReason = none ∧ x.retireTime = none := by
  cases x with
  | retired reason time => exact absurd rfl other
  | entered | ready | racing | coasting | stopped | finished time => exact ⟨rfl, rfl⟩

/-! ### The classification at the entry into RESULTS (R105) -/

theorem State.stopRace_car (s : State) (reason : Reason) (q : Port) :
    (s.stopRace reason).car q = (s.car q).map Car.stop := by
  simp [State.car, State.stopRace]

/-- The order of total times depends on the penalties alone. -/
theorem State.byTotal_congr {s t : State} (h : ∀ q, t.penalty q = s.penalty q) (l : List FinishEntry) :
    t.byTotal l = s.byTotal l := by
  have total : t.totalTime = s.totalTime := funext fun e => congrArg (e.time + ·) (h e.slot)
  rw [State.byTotal_eq_insertionSort, State.byTotal_eq_insertionSort, total]

theorem State.stopRace_penalty (s : State) (reason : Reason) (q : Port) :
    (s.stopRace reason).penalty q = s.penalty q := by
  unfold State.penalty
  rw [State.stopRace_car]
  cases s.car q with
  | none => rfl
  | some c => exact (congrArg Car.penalty c.stop_eq :)

/-- The cars that stop in step 2 of R36 keep their places in the classification. -/
theorem State.stopRace_classification (s : State) (reason : Reason) :
    (s.stopRace reason).classification = s.classification := by
  unfold State.classification
  rw [State.byTotal_congr (s.stopRace_penalty reason)]
  rfl

/-- Settles O36: the order of total times is a stable sort; the table lists the classification, and each entry
is that of the car as it has stopped. -/
theorem finishedBandByTotalTime : Obligations.FinishedBandByTotalTime := by
  refine ⟨fun s l => ⟨s.byTotal_perm l, s.byTotal_pairwise l, s.byTotal_filter l⟩, ?_⟩
  rintro s reason _ order running rfl
  have cars : ∀ q ∈ (s.stopRace reason).classification, (s.stopRace reason).isRacePort q = true := by
    intro q member
    rw [State.stopRace_classification] at member
    rw [State.stopRace_isRacePort]
    exact order.classified (Phase.afterGreen_of_running running) q member
  refine ⟨rfl, (State.buildResults_slots reason cars).trans (s.stopRace_classification reason), ?_⟩
  intro i e found
  obtain ⟨_, car, entry⟩ := State.buildResults_getElem? cars found
  rw [State.stopRace_car] at car
  obtain ⟨c, ran, rfl⟩ := Option.map_eq_some_iff.mp car
  rw [Car.stop_eq] at entry
  have state : e.state = c.standing.stop.state := by rw [entry]; rfl
  obtain ⟨finish, total⟩ : e.finishTime = c.standing.stop.finishTime ∧
      e.totalTime = c.standing.stop.finishTime.map (· + c.penalty) := by rw [entry]; exact ⟨rfl, rfl⟩
  obtain ⟨reason, clock⟩ : e.retireReason = c.standing.stop.retireReason ∧
      e.retireTime = c.standing.stop.retireTime := by rw [entry]; exact ⟨rfl, rfl⟩
  have best : e.bestLap = c.laps.min? := by rw [← bestLap_eq_min?, entry]; rfl
  refine ⟨c, ran, by rw [entry]; rfl, state.trans c.standing.stop_state, by rw [entry]; rfl,
    by rw [entry]; rfl, by rw [entry]; rfl, fun time finished => ?_, fun other => ?_, fun noLap => ?_,
    fun lapped => ?_, fun why time retired => ?_, fun other => ?_⟩
  · rw [finish, total, finished]
    exact ⟨rfl, rfl⟩
  · rw [finish, total, Standing.finishTime_of_state (state ▸ other)]
    exact ⟨rfl, rfl⟩
  · rw [best, noLap]
    rfl
  · obtain ⟨lap, least⟩ := Option.ne_none_iff_exists'.mp (mt List.min?_eq_none_iff.mp lapped)
    obtain ⟨member, below⟩ := List.min?_eq_some_iff.mp least
    exact ⟨lap, member, best.trans least, below⟩
  · rw [reason, clock, retired]
    exact ⟨rfl, rfl⟩
  · rw [reason, clock]
    exact Standing.retired_of_state (state ▸ other)

/-! ### READ_LAPS (R110, R111) -/

theorem State.carNumbered_of_lt (s : State) {n : Nat} (h : n < 8) :
    s.carNumbered n = (s.car ⟨n, h⟩).map fun c => (⟨n, h⟩, c) := dif_pos h

theorem State.carNumbered_of_not_lt (s : State) {n : Nat} (h : ¬n < 8) : s.carNumbered n = none := dif_neg h

theorem performReadLaps_fenced {s : State} {p : Port} (r : Request) (fenced : (s.port p).fenced = true) :
    performReadLaps p r s = (s, .bare .readLaps .fenced) := if_pos fenced

/-- Before the green a READ_LAPS is refused by the phase (R110). -/
theorem performReadLaps_before {s : State} {p : Port} (r : Request) (free : (s.port p).fenced = false)
    (before : s.race.phase.afterGreen = false) :
    performReadLaps p r s =
      (s, .bare .readLaps (if s.race.phase = .idle then .noRace else .wrongPhase)) := by
  unfold performReadLaps
  rw [if_neg (by simp [free])]
  split
  · rfl
  · exact if_pos (by simp [before])

/-- From the green on a READ_LAPS of no car is refused (R110). -/
theorem performReadLaps_noCar {s : State} {p : Port} {r : Request} (free : (s.port p).fenced = false)
    (after : s.race.phase.afterGreen = true) (noCar : s.carNumbered (byteAt r.payload 0) = none) :
    performReadLaps p r s = (s, .bare .readLaps .range) := by
  unfold performReadLaps
  rw [if_neg (by simp [free]), if_neg fun idle => by simp [idle, Phase.afterGreen] at after,
    if_neg (by simp [after]), noCar]
  rfl

/-- From the green on a READ_LAPS of a car returns its lap times from an index within its lap list (R111). -/
theorem performReadLaps_car {s : State} {p slot : Port} {r : Request} {c : Car}
    (free : (s.port p).fenced = false) (after : s.race.phase.afterGreen = true)
    (car : s.carNumbered (byteAt r.payload 0) = some (slot, c)) :
    performReadLaps p r s = (s,
      if byteAt r.payload 1 ≤ c.laps.length then
        .readLaps slot c.laps.length (byteAt r.payload 1) ((c.laps.drop (byteAt r.payload 1)).take 50)
      else .bare .readLaps .range) := by
  unfold performReadLaps
  rw [if_neg (by simp [free]), if_neg fun idle => by simp [idle, Phase.afterGreen] at after,
    if_neg (by simp [after]), car]
  by_cases within : byteAt r.payload 1 ≤ c.laps.length
  · rw [if_pos within]
    exact if_neg (Nat.not_lt.mpr within)
  · rw [if_neg within]
    exact if_pos (Nat.lt_of_not_le within)

/-- Settles O34: the checks in their order, and from the green on the car that the slot number names. -/
theorem readLapsReturnsLapTimes : Obligations.ReadLapsReturnsLapTimes := by
  intro s p r granted
  refine congrArg Host.Outcome.next (State.grant_answered granted ?_)
  have same := s.requestTaken_fenced p p
  cases fenced : (s.port p).fenced with
  | true => exact performReadLaps_fenced r (same.trans fenced)
  | false =>
    have free := same.trans fenced
    cases phase : s.race.phase with
    | idle | forming | grid | countdown =>
      have here : (s.requestTaken p).race.phase = _ := phase
      refine (performReadLaps_before r free (by rw [here]; rfl)).trans ?_
      rw [here]
      rfl
    | green | finishing | results =>
      have after : (s.requestTaken p).race.phase.afterGreen = true := congrArg Phase.afterGreen phase
      by_cases slot : byteAt r.payload 0 < 8
      · have numbered := (s.requestTaken p).carNumbered_of_lt slot
        simp only [dif_pos slot]
        cases car : s.car ⟨byteAt r.payload 0, slot⟩ with
        | none => exact performReadLaps_noCar free after (numbered.trans (congrArg _ car))
        | some c => exact performReadLaps_car free after (numbered.trans (congrArg _ car))
      · simp only [dif_neg slot]
        exact performReadLaps_noCar free after ((s.requestTaken p).carNumbered_of_not_lt slot)

/-! ### READ_RESULTS (R109) -/

/-- A READ_RESULTS outside IDLE and RESULTS is refused by the phase, whatever the results table holds. -/
theorem performReadResults_wrongPhase {s : State} {p : Port} (r : Request)
    (free : (s.port p).fenced = false) (started : s.race.phase ≠ .idle) (runs : s.race.phase ≠ .results) :
    performReadResults p r s = (s, .bare .readResults .wrongPhase) := by
  unfold performReadResults
  rw [if_neg (by simp [free]), if_neg started]
  split
  · next phase _ => exact absurd phase runs
  · rfl

theorem performReadResults_table {s : State} {p : Port} {table : ResultsTable} (r : Request)
    (free : (s.port p).fenced = false) (results : s.race.phase = .results)
    (kept : s.resultsTable = some table) :
    performReadResults p r s = (s, .readResults table) := by
  unfold performReadResults
  rw [if_neg (by simp [free]), if_neg (by simp [results]), results, kept]

/-- Settles O35: each check answers by itself, and past them stands the table of RESULTS. -/
theorem readResultsReturnsTheTable : Obligations.ReadResultsReturnsTheTable := by
  intro s p r granted
  have same := s.requestTaken_fenced p p
  have answers {response : Response}
      (done : performReadResults p r (s.requestTaken p) = (s.requestTaken p, response)) :
      exec (.readResults p) s = .next (s.answered p response) :=
    congrArg Host.Outcome.next (State.grant_answered granted done)
  refine ⟨fun fenced => answers (if_pos (same.trans fenced)), fun free idle => answers ?_,
    fun free started runs => answers ?_, fun table free results kept => answers ?_⟩
  · exact (if_neg (by simp [same, free])).trans (if_pos idle)
  · exact performReadResults_wrongPhase r (same.trans free) started runs
  · exact performReadResults_table r (same.trans free) results kept

end Sys2Proof.Machine
end

section
/-! PROOF. The hold and the COASTING cars (R113 to R118, R137, R138) under the operations of the race, which leave
the presence of every port. -/
namespace Sys2Proof.Machine

/-! ### What the hold follows -/

/-- The phase, the hold slot, every car's state and every port's presence are the same. -/
structure State.KeepsHold (s t : State) : Prop where
  phase : t.race.phase = s.race.phase
  slot : t.race.holdSlot = s.race.holdSlot
  cars : ∀ q : Port, t.carState q = s.carState q
  presence : ∀ q : Port, (t.port q).presence = (s.port q).presence

theorem State.KeepsHold.refl (s : State) : s.KeepsHold s := ⟨rfl, rfl, fun _ => rfl, fun _ => rfl⟩

theorem State.KeepsHold.trans {s t u : State} (h : s.KeepsHold t) (k : t.KeepsHold u) : s.KeepsHold u where
  phase := k.phase.trans h.phase
  slot := k.slot.trans h.slot
  cars := fun q => (k.cars q).trans (h.cars q)
  presence := fun q => (k.presence q).trans (h.presence q)

/-- Whether some READY car's port is LATE depends on the cars' states and the ports' presence alone. -/
theorem State.anyReadyLate_congr {s t : State}
    (ready : ∀ q : Port, t.carState q = .ready ∧ (t.port q).presence = .late ↔
      s.carState q = .ready ∧ (s.port q).presence = .late) : t.anyReadyLate = s.anyReadyLate := by
  rw [Bool.eq_iff_iff, State.anyReadyLate_iff, State.anyReadyLate_iff]
  exact exists_congr ready

theorem State.KeepsHold.sound {s t : State} (k : s.KeepsHold t) (h : s.HoldSound) : t.HoldSound where
  held := fun count => by
    have late : t.anyReadyLate = s.anyReadyLate :=
      State.anyReadyLate_congr fun q => by rw [k.cars, k.presence]
    rw [k.slot, late]
    exact h.held (k.phase.symm.trans count)
  coasting := fun q coasts => by
    rw [k.phase, k.presence]
    exact h.coasting q ((k.cars q).symm.trans coasts)

theorem State.OnlyNotices.keepsHold {s t : State} (h : s.OnlyNotices t) : s.KeepsHold t where
  phase := by rw [h.race]
  slot := by rw [h.race]
  cars := fun q => by rw [State.carState, h.car, State.carState]
  presence := fun q => by rw [h.ports q]

/-- The same standings, with no more than notices for the ports. -/
theorem State.SameStandings.keepsHold {s t : State} (h : s.SameStandings t) (told : s.TellsPorts t) :
    s.KeepsHold t where
  phase := h.stores.phase
  slot := by rw [h.race]
  cars := fun q => by rw [State.carState_eq, h.standings, State.carState_eq]
  presence := fun q => by rw [told.ports q]

/-- The same race, with every port in the presence it had. -/
theorem State.SameRace.keepsHold {s t : State} (h : s.SameRace t)
    (presence : ∀ q : Port, (t.port q).presence = (s.port q).presence) : s.KeepsHold t where
  phase := by rw [h.race]
  slot := by rw [h.race]
  cars := fun q => by rw [State.carState_eq, h.sameStandings.standings, State.carState_eq]
  presence := presence

theorem State.modifyRace_keepsHold {s : State} {f : RaceRecord → RaceRecord}
    (phase : (f s.race).phase = s.race.phase) (slot : (f s.race).holdSlot = s.race.holdSlot) :
    s.KeepsHold (s.modifyRace f) :=
  ⟨phase, slot, fun _ => rfl, fun _ => rfl⟩

theorem State.modifyCar_keepsHold {s : State} {p : Port} {f : Car → Car}
    (same : ∀ c, s.car p = some c → (f c).standing = c.standing) : s.KeepsHold (s.modifyCar p f) :=
  (State.modifyCar_sameStandings same).keepsHold (s.modifyCar_tellsPorts p f)

/-! ### Races without a COASTING car -/

/-- No car is COASTING. -/
def State.NoneCoasting (s : State) : Prop := ∀ q : Port, s.carState q ≠ .coasting

/-- Outside GREEN and FINISHING no car is COASTING (R137). -/
theorem State.HoldSound.noneCoasting {s : State} (h : s.HoldSound) (still : s.race.phase.running = false) :
    s.NoneCoasting := fun q coasts => by
  obtain ⟨running, -⟩ := h.coasting q coasts
  exact absurd (still.symm.trans running) (by decide)

/-- Without a COASTING car the hold has to agree in COUNTDOWN alone. -/
theorem State.NoneCoasting.holdSound_of_held {s : State} (none : s.NoneCoasting)
    (held : s.race.phase = .countdown → s.race.holdSlot.isSome = s.anyReadyLate) : s.HoldSound :=
  ⟨held, fun q coasts => absurd coasts (none q)⟩

theorem State.NoneCoasting.holdSound {s : State} (none : s.NoneCoasting) (other : s.race.phase ≠ .countdown) :
    s.HoldSound :=
  none.holdSound_of_held fun count => absurd count other

theorem Phase.ne_countdown_of_running {x : Phase} (running : x.running = true) : x ≠ .countdown := by
  rintro rfl
  exact absurd running (by decide)

/-- While the race runs, cars may cease to coast. -/
theorem State.HoldSound.of_running {s t : State} (h : s.HoldSound) (running : t.race.phase.running = true)
    (presence : ∀ q : Port, (t.port q).presence = (s.port q).presence)
    (cars : ∀ q : Port, t.carState q = .coasting → s.carState q = .coasting) : t.HoldSound where
  held := fun count => absurd count (Phase.ne_countdown_of_running running)
  coasting := fun q coasts => ⟨running, (presence q).trans (h.coasting q (cars q coasts)).2⟩

/-! ### The phases before the green (R23 to R29, R38 to R40, R52, R113 to R118) -/

/-- Whatever the race was, the return to IDLE leaves no car that could be held or coast. -/
theorem State.returnToIdle_holdSound (reason : Reason) (s : State) : (s.returnToIdle reason).HoldSound := by
  have back := State.returnToIdle_spec reason s
  refine State.NoneCoasting.holdSound (fun q => ?_) (by rw [back.race]; simp [RaceRecord.reset])
  rw [State.carState, back.cars]
  decide

theorem State.NoneCoasting.enterGrid {s : State} (none : s.NoneCoasting) : s.enterGrid.HoldSound :=
  (State.notifyPhase_only _ _).keepsHold.sound (State.NoneCoasting.holdSound none (by simp))

/-- The entry into COUNTDOWN is held exactly while some READY car's port is LATE (R27, R116). -/
theorem State.NoneCoasting.enterCountdown {s : State} (none : s.NoneCoasting) : s.enterCountdown.HoldSound := by
  refine s.enterCountdown_only.keepsHold.sound (State.NoneCoasting.holdSound_of_held none fun _ => ?_)
  show (if s.anyReadyLate then some _ else Option.none).isSome = s.anyReadyLate
  cases s.anyReadyLate <;> rfl

/-- The hold test makes the hold agree with the LATE ports (R114, R115, R118). -/
theorem State.NoneCoasting.holdTest {s : State} (none : s.NoneCoasting) : s.holdTest.HoldSound := by
  by_cases count : s.race.phase = .countdown
  · cases slot : s.race.holdSlot <;> cases late : s.anyReadyLate
    case none.true =>
      rw [State.holdTest_begins count slot late]
      exact (State.notifyPhase_only _ _).keepsHold.sound
        (State.NoneCoasting.holdSound_of_held none fun _ => late.symm)
    case some.false saved =>
      rw [State.holdTest_resumes count slot late]
      exact (State.notifyPhase_only _ _).keepsHold.sound
        (State.NoneCoasting.holdSound_of_held none fun _ => late.symm)
    all_goals
      have agrees : s.race.holdSlot.isSome = s.anyReadyLate := by rw [slot, late]; rfl
      rw [State.holdTest_agrees agrees]
      exact none.holdSound_of_held fun _ => agrees
  · rw [State.holdTest_other count]
    exact none.holdSound count

theorem State.NoneCoasting.handover {s : State} (none : s.NoneCoasting) (forming : s.race.phase = .forming) :
    s.handover.HoldSound := by
  unfold State.handover
  split
  · exact ((State.modifyRace_keepsHold rfl rfl).trans (State.notifyPhase_only _ _).keepsHold).sound
      (none.holdSound (by rw [forming]; decide))
  · exact s.returnToIdle_holdSound _

theorem State.NoneCoasting.gridTests {s : State} (none : s.NoneCoasting) (grid : s.race.phase = .grid) :
    s.gridTests.HoldSound := by
  unfold State.gridTests
  split_ifs
  · exact s.returnToIdle_holdSound _
  · exact none.enterCountdown
  · exact none.holdSound (by rw [grid]; decide)

theorem State.NoneCoasting.countdownTests {s : State} (none : s.NoneCoasting) : s.countdownTests.HoldSound := by
  unfold State.countdownTests
  split
  · exact s.returnToIdle_holdSound _
  · exact none.holdTest

theorem State.NoneCoasting.withdraw {s : State} (none : s.NoneCoasting) (p : Port) (reason : Reason) :
    (s.withdraw p reason).NoneCoasting := fun q => by
  rw [State.withdraw_carState]
  split
  · decide
  · exact none q

theorem State.NoneCoasting.withdrawEach {s : State} (none : s.NoneCoasting) (reason : Reason) (l : List Port) :
    (s.withdrawEach l reason).NoneCoasting := by
  induction l generalizing s with
  | nil => exact none
  | cons p rest ih => exact ih (none.withdraw p reason)

/-- A withdrawal, with the tests that its phase makes after it (R52, R53). -/
theorem State.NoneCoasting.withdrawAndTest {s : State} (none : s.NoneCoasting) (p : Port) (reason : Reason) :
    (s.withdrawAndTest p reason).HoldSound := by
  have left := none.withdraw p reason
  unfold State.withdrawAndTest
  dsimp only
  cases phase : (s.withdraw p reason).race.phase with
  | forming =>
    dsimp only
    split
    · exact left.handover phase
    · exact left.holdSound (by rw [phase]; decide)
  | grid => exact left.gridTests phase
  | countdown => exact left.countdownTests
  | idle | green | finishing | results => exact left.holdSound (by rw [phase]; decide)

theorem State.HoldSound.entryWindowExpiry {s : State} (h : s.HoldSound) : s.entryWindowExpiry.HoldSound := by
  unfold State.entryWindowExpiry
  split
  · next due =>
    split
    · exact (h.noneCoasting (by rw [State.entryWindowDue_forming due]; rfl)).enterGrid
    · exact s.returnToIdle_holdSound _
  · exact h

theorem State.HoldSound.gridWaitExpiry {s : State} (h : s.HoldSound) : s.gridWaitExpiry.HoldSound := by
  unfold State.gridWaitExpiry
  split
  · next due =>
    have left := (h.noneCoasting (by rw [due.1]; rfl)).withdrawEach .readyMissed s.enteredPorts
    dsimp only
    split
    · exact State.returnToIdle_holdSound _ _
    · exact left.enterCountdown
  · exact h

/-! ### From the green on (R30, R32, R36, R37, R54) -/

/-- A car that starts does not coast. -/
theorem Car.start_standing (next : Option Gate) (c : Car) :
    (c.start next).standing = if c.standing = .ready then .racing else c.standing := by
  unfold Car.start
  split <;> rfl

theorem State.NoneCoasting.enterGreen {s : State} (none : s.NoneCoasting) : s.enterGreen.HoldSound := by
  unfold State.enterGreen
  refine (State.notifyPhase_only _ _).keepsHold.sound (State.NoneCoasting.holdSound (fun q => ?_) (by simp))
  have stays := none q
  simp only [State.carState, State.car, Bank.get_map] at stays ⊢
  cases car : s.cars.get q with
  | none => simp
  | some c =>
    rw [car] at stays
    show (c.start _).standing.state ≠ .coasting
    rw [Car.start_standing]
    split
    · decide
    · exact stays

theorem State.HoldSound.countdownExpiry {s : State} (h : s.HoldSound) : s.countdownExpiry.HoldSound := by
  unfold State.countdownExpiry
  split
  · next due => exact (h.noneCoasting (by rw [due.1]; rfl)).enterGreen
  · exact h

theorem State.HoldSound.releaseTest {s : State} (h : s.HoldSound) : s.releaseTest.HoldSound := by
  unfold State.releaseTest
  split
  · exact s.returnToIdle_holdSound _
  · exact h

theorem State.HoldSound.release {s : State} (h : s.HoldSound) (p : Port) : (s.release p).HoldSound :=
  ((State.modifyRace_keepsHold rfl rfl).sound h).releaseTest

/-- A car that has stopped does not coast (R36). -/
theorem Standing.stop_ne_coasting (x : Standing) : x.stop.state ≠ .coasting := by
  cases x with
  | entered | ready | racing | coasting | stopped => decide
  | finished _ | retired _ _ => exact CarState.noConfusion

/-- Whatever the race was, its cars have stopped in RESULTS (R36). -/
theorem State.enterResults_holdSound (reason : Reason) (s : State) : (s.enterResults reason).HoldSound := by
  have stopped : ((s.stopRace reason).openResults reason).NoneCoasting := fun q => by
    show (s.stopRace reason).carState q ≠ .coasting
    rw [State.carState_eq, State.stopRace_standingOf]
    cases s.standingOf q with
    | none => decide
    | some x => exact x.stop_ne_coasting
  exact ((State.notifyPhase_only _ _).keepsHold.sound
    (stopped.holdSound (by simp [State.openResults, State.stopRace]))).releaseTest

theorem State.HoldSound.closingWindowExpiry {s : State} (h : s.HoldSound) :
    s.closingWindowExpiry.HoldSound := by
  unfold State.closingWindowExpiry
  split
  · exact s.enterResults_holdSound _
  · exact h

theorem State.HoldSound.resultsHoldExpiry {s : State} (h : s.HoldSound) : s.resultsHoldExpiry.HoldSound := by
  unfold State.resultsHoldExpiry
  split
  · exact s.returnToIdle_holdSound _
  · exact h

theorem State.HoldSound.enterFinishing {s : State} (h : s.HoldSound) : s.enterFinishing.HoldSound :=
  (State.notifyPhase_only _ _).keepsHold.sound (h.of_running rfl (fun _ => rfl) fun _ => id)

theorem State.HoldSound.endTests {s : State} (h : s.HoldSound) (afterFinish : Bool) :
    (s.endTests afterFinish).HoldSound := by
  unfold State.endTests
  split_ifs
  iterate 4 exact s.enterResults_holdSound _
  · exact h.enterFinishing
  · exact h

/-- The car that retires ceases to coast, on whatever port (R54). -/
theorem State.retire_holdSound {s : State} {p : Port} (running : s.race.phase.running = true)
    (others : ∀ q : Port, q ≠ p → s.carState q = .coasting → (s.port q).presence = .late) (reason : Reason) :
    (s.retire p reason).HoldSound := by
  obtain ⟨t, only, ends⟩ := State.retire_spec p reason s
  have retired : (s.retiredState p reason).HoldSound := by
    refine ⟨fun count => absurd count (Phase.ne_countdown_of_running running), fun q coasts => ⟨running, ?_⟩⟩
    by_cases own : q = p
    · have gone : (s.retiredState p reason).car q =
          (s.car p).map fun c => { c with standing := .retired reason s.raceClock } := by
        rw [own]; exact State.modifyCar_car_self s p _
      rw [State.carState, gone] at coasts
      cases car : s.car p <;> simp [car, Standing.state] at coasts
    · have same : (s.retiredState p reason).car q = s.car q := State.modifyCar_car_ne s _ own
      rw [State.carState, same] at coasts
      exact others q own coasts
  rw [ends]
  exact (only.keepsHold.sound retired).endTests false

theorem State.HoldSound.retire {s : State} (h : s.HoldSound) (running : s.race.phase.running = true)
    (p : Port) (reason : Reason) : (s.retire p reason).HoldSound :=
  State.retire_holdSound running (fun q _ coasts => (h.coasting q coasts).2) reason

/-! ### Votes (R121 to R125) -/

theorem State.dropVote_keepsHold (s : State) (p : Port) : s.KeepsHold (s.dropVote p) :=
  State.modifyRace_keepsHold rfl rfl

theorem State.castVote_keepsHold (s : State) (p : Port) : s.KeepsHold (s.castVote p) := by
  have cast : s.KeepsHold (s.modifyRace fun r => { r with votes := r.votes.set p (some s.raceClock) }) :=
    State.modifyRace_keepsHold rfl rfl
  unfold State.castVote
  dsimp only
  split
  · exact cast
  · exact cast.trans (State.notifyVotes_only _).keepsHold

theorem State.removeVote_keepsHold (s : State) (p : Port) : s.KeepsHold (s.removeVote p) := by
  unfold State.removeVote
  split
  · exact (s.dropVote_keepsHold p).trans (State.notifyVotes_only _).keepsHold
  · exact .refl s

theorem State.voteExpiry_keepsHold (s : State) (p : Port) : s.KeepsHold (s.voteExpiry p) := by
  unfold State.voteExpiry
  split
  · exact (s.dropVote_keepsHold p).trans (State.notifyVotes_only _).keepsHold
  · exact .refl s

end Sys2Proof.Machine
end

section
/-! PROOF. The hold and the COASTING cars under the changes of presence (R131 to R139), major errors, the loss of
a link, the answers of a port, and frames. -/
namespace Sys2Proof.Machine

/-! ### Changes of presence (R131 to R139) -/

/-- A change of one port keeps the hold sound where the port of a READY car in COUNTDOWN stays LATE or not LATE,
and the port of a COASTING car is LATE after it. -/
theorem State.HoldSound.modifyPort {s : State} (h : s.HoldSound) {p : Port} {f : PortState → PortState}
    (ready : s.race.phase = .countdown → s.carState p = .ready →
      ((f (s.port p)).presence = .late ↔ (s.port p).presence = .late))
    (coasts : s.carState p = .coasting → (f (s.port p)).presence = .late) : (s.modifyPort p f).HoldSound where
  held := fun count => by
    have late : (s.modifyPort p f).anyReadyLate = s.anyReadyLate := by
      refine State.anyReadyLate_congr fun q => and_congr_right fun (is : s.carState q = .ready) => ?_
      rw [State.modifyPort_port]
      split
      · next own => rw [own]; exact ready count (own ▸ is)
      · rfl
    rw [late]
    exact h.held count
  coasting := fun q (is : s.carState q = .coasting) => by
    obtain ⟨running, late⟩ := h.coasting q is
    refine ⟨running, ?_⟩
    rw [State.modifyPort_port]
    split
    · next own => exact coasts (own ▸ is)
    · exact late

/-- A change of one port that leaves its presence keeps the hold sound. -/
theorem State.HoldSound.modifyPort_same {s : State} (h : s.HoldSound) (p : Port) {f : PortState → PortState}
    (presence : ∀ c : PortState, (f c).presence = c.presence) : (s.modifyPort p f).HoldSound :=
  h.modifyPort (fun _ _ => by rw [presence]) fun coasts => by rw [presence]; exact (h.coasting p coasts).2

/-- A car that runs comes to coast, or races again: the COASTING cars after it are on LATE ports where those
before it were, and its own port is LATE where it coasts. -/
theorem State.changeRunning_holdSound {s : State} {p : Port} {x : Standing} (n : Notice)
    (running : s.race.phase.running = true)
    (own : x.state = .coasting → (s.port p).presence = .late)
    (others : ∀ q : Port, q ≠ p → s.carState q = .coasting → (s.port q).presence = .late) :
    ((s.modifyCar p fun c => { c with standing := x }).notifyRace n).HoldSound := by
  have restands := s.modifyCar_restands p x
  refine (State.notifyRace_only _ _).keepsHold.sound
    ⟨fun count => absurd count (Phase.ne_countdown_of_running running), fun q coasts => ⟨running, ?_⟩⟩
  rw [State.carState_eq] at coasts
  by_cases e : q = p
  · rw [e, restands.own] at coasts
    rw [e]
    cases stands : s.standingOf p with
    | none => rw [stands] at coasts; exact absurd coasts CarState.noConfusion
    | some y => rw [stands] at coasts; exact own coasts
  · rw [restands.others q e, ← State.carState_eq] at coasts
    exact others q e coasts

/-- A port that goes LATE: a READY car holds the countdown, and a RACING car coasts (R132, R137). -/
theorem State.HoldSound.goLate {s : State} (h : s.HoldSound) (p : Port) (reason : Reason) :
    (s.goLate p reason).HoldSound := by
  let f : PortState → PortState := fun c => { c with presence := .late, silence := .second secondStageLength }
  have late : ((s.modifyPort p f).port p).presence = .late := by rw [State.modifyPort_port_self]
  show ((s.modifyPort p f).lateEffects p reason).HoldSound
  unfold State.lateEffects
  split_ifs with running racing held
  · have away : (s.modifyPort p f).HoldSound :=
      h.modifyPort (fun count => absurd count (Phase.ne_countdown_of_running running)) fun _ => rfl
    exact State.changeRunning_holdSound _ running (fun _ => late) fun q _ coasts => (away.coasting q coasts).2
  · exact h.modifyPort (fun count => absurd count (Phase.ne_countdown_of_running running)) fun _ => rfl
  · have none : (s.modifyPort p f).NoneCoasting := h.noneCoasting (Bool.eq_false_iff.mpr running)
    exact none.holdTest
  · exact h.modifyPort (fun count ready => absurd ⟨count, ready⟩ held) fun _ => rfl

/-- A port that becomes PRESENT: where it was LATE its READY car may end a hold, and its COASTING car races
again (R131, R138). -/
theorem State.HoldSound.becomePresent {s : State} (h : s.HoldSound) (p : Port) : (s.becomePresent p).HoldSound := by
  let f : PortState → PortState := fun c => { c with presence := .present, silence := .first firstStageLength }
  unfold State.becomePresent
  dsimp only
  split
  · show ((s.modifyPort p f).returnEffects p).HoldSound
    unfold State.returnEffects
    split_ifs with running coasting held
    · refine State.changeRunning_holdSound _ running (fun racing => absurd racing (by decide))
        fun q other coasts => ?_
      rw [State.modifyPort_port_ne _ _ other]
      exact (h.coasting q coasts).2
    · exact h.modifyPort (fun count => absurd count (Phase.ne_countdown_of_running running))
        fun coasts => absurd coasts coasting
    · have none : (s.modifyPort p f).NoneCoasting := h.noneCoasting (Bool.eq_false_iff.mpr running)
      exact none.holdTest
    · exact h.modifyPort (fun count ready => absurd ⟨count, ready⟩ held)
        fun coasts => absurd (h.coasting p coasts).1 running
  · next away =>
    exact h.modifyPort (fun _ _ => iff_of_false Presence.noConfusion away)
      fun coasts => absurd (h.coasting p coasts).2 away

/-- A port that becomes LOST: its car leaves the race where it would be held for it, and retires where it
coasts (R134, R139). -/
theorem State.HoldSound.becomeLost {s : State} (h : s.HoldSound) (p : Port) : (s.becomeLost p).HoldSound := by
  let f : PortState → PortState := fun c => { c with presence := .lost, silence := .stopped }
  have unheld : s.carState p ≠ .coasting → s.race.phase ≠ .countdown → (s.modifyPort p f).HoldSound :=
    fun steady other => h.modifyPort (fun count => absurd count other) fun coasts => absurd coasts steady
  show ((s.modifyPort p f).lostEffects p).HoldSound
  unfold State.lostEffects
  rw [State.modifyPort_race]
  cases phase : s.race.phase with
  | idle => exact unheld (h.noneCoasting (by rw [phase]; rfl) p) (by rw [phase]; decide)
  | forming | grid | countdown =>
    have none : (s.modifyPort p f).NoneCoasting := h.noneCoasting (by rw [phase]; rfl)
    dsimp only
    split
    · exact none.withdrawAndTest p _
    · next out =>
      have empty : s.carState p = .empty := by
        rw [State.modifyPort_isRacePort, State.isRacePort_eq, Bool.not_eq_true, Option.isSome_eq_false_iff,
          Option.isNone_iff_eq_none] at out
        rw [State.carState_eq, out]
        rfl
      exact h.modifyPort (fun _ ready => absurd (empty.symm.trans ready) (by decide))
        fun coasts => absurd (empty.symm.trans coasts) (by decide)
  | green | finishing =>
    dsimp only
    split
    · refine State.retire_holdSound (by rw [State.modifyPort_race, phase]; rfl) (fun q other coasts => ?_) _
      rw [State.modifyPort_port_ne _ _ other]
      exact (h.coasting q coasts).2
    · next steady => exact unheld steady (by rw [phase]; decide)
  | results =>
    have lost := unheld (h.noneCoasting (by rw [phase]; rfl) p) (by rw [phase]; decide)
    dsimp only
    split
    · exact lost.release p
    · exact lost

section
variable {s : State}

theorem State.HoldSound.silenceFirstStageExpiry (h : s.HoldSound) (p : Port) :
    (s.silenceFirstStageExpiry p).HoldSound := by
  unfold State.silenceFirstStageExpiry
  split
  · exact h.goLate p _
  · exact h

theorem State.HoldSound.silenceSecondStageExpiry (h : s.HoldSound) (p : Port) :
    (s.silenceSecondStageExpiry p).HoldSound := by
  unfold State.silenceSecondStageExpiry
  split
  · exact h.becomeLost p
  · exact h

theorem State.HoldSound.pushTimerExpiry (h : s.HoldSound) (p : Port) : (s.pushTimerExpiry p).HoldSound := by
  unfold State.pushTimerExpiry
  split
  · exact h.modifyPort_same p fun _ => rfl
  · exact h

/-! ### Major errors and the loss of a link (R140 to R143, R171, R179) -/

theorem State.HoldSound.fence (h : s.HoldSound) (p : Port) : (s.fence p).HoldSound := by
  have fenced : (s.modifyPort p fun c => { c with fenced := true }).HoldSound :=
    h.modifyPort_same p fun _ => rfl
  unfold State.fence
  dsimp only
  cases (s.port p).presence with
  | present | lost => exact fenced.goLate p _
  | late | absent => exact fenced

theorem State.HoldSound.majorError (h : s.HoldSound) (p : Port) (kind : ErrorKind) (requestKind : Option Byte) :
    (s.majorError p kind requestKind).HoldSound := by
  unfold State.majorError
  split
  · exact (State.notifyOwn_only _ _ _).keepsHold.sound (h.modifyPort_same p fun _ => rfl)
  · split_ifs
    · exact h
    · exact h.fence p
    · exact h.modifyPort_same p fun _ => rfl

theorem State.HoldSound.reportReserved (h : s.HoldSound) (p : Port) (r : Request) :
    (s.reportReserved p r).HoldSound := by
  unfold State.reportReserved
  split
  · exact h.majorError p _ _
  · exact h

theorem State.HoldSound.linkDown (h : s.HoldSound) (p : Port) : (s.linkDown p).HoldSound := by
  have dropped : (s.modifyPort p PortState.dropLink).HoldSound := h.modifyPort_same p fun _ => rfl
  unfold State.linkDown
  dsimp only
  split
  · exact dropped.goLate p _
  · exact dropped

theorem State.HoldSound.badLengthFrame (h : s.HoldSound) (p : Port) : (s.badLengthFrame p).HoldSound := by
  unfold State.badLengthFrame
  split
  · exact h.majorError p _ _
  · exact h

theorem State.HoldSound.badCheckFrame (h : s.HoldSound) (p : Port) : (s.badCheckFrame p).HoldSound := by
  have counted : (s.modifyPort p fun c => { c with badChecks := c.badChecks + 1 }).HoldSound :=
    h.modifyPort_same p fun _ => rfl
  have reported := counted.majorError p .badCheck none
  unfold State.badCheckFrame
  split
  · exact h
  · dsimp only
    split
    · exact reported.linkDown p
    · exact reported

theorem State.HoldSound.lossOfSignal (h : s.HoldSound) (p : Port) : (s.lossOfSignal p).HoldSound := by
  unfold State.lossOfSignal
  split
  · exact h.linkDown p
  · exact h.modifyPort_same p fun _ => rfl

/-! ### Grants, and what a port answers itself (R61, R63, R176) -/

/-- A grant keeps the hold sound where its performance does. -/
theorem State.HoldSound.grant {p : Port} {kind : RequestKind} {perform : Request → State → State × Response}
    (h : s.HoldSound) (keeps : ∀ (r : Request) (u : State), u.HoldSound → (perform r u).1.HoldSound) :
    (s.grant p kind perform).HoldSound := by
  cases waits : s.granted p kind with
  | none => rw [State.grant_none waits]; exact h
  | some r =>
    have taken : (s.modifyPort p PortState.dropRequest).HoldSound :=
      h.modifyPort_same p fun _ => rfl
    rw [State.grant_some waits]
    exact ((State.setPointer_sameRace _ p).keepsHold fun _ => rfl).sound
      ((keeps r _ taken).modifyPort_same p fun _ => rfl)

/-- An answer at the head of a queue keeps the hold sound where its performance does. -/
theorem State.HoldSound.answer {p : Port} {kind : RequestKind} {perform : Request → State → State × Response}
    (h : s.HoldSound) (keeps : ∀ (r : Request) (u : State), u.HoldSound → (perform r u).1.HoldSound) :
    (s.answer p kind perform).HoldSound := by
  cases waits : s.localRequest p kind with
  | none => rw [State.answer_none waits]; exact h
  | some r =>
    have taken : (s.modifyPort p PortState.dropRequest).HoldSound :=
      h.modifyPort_same p fun _ => rfl
    rw [State.answer_some waits]
    exact (keeps r _ taken).modifyPort_same p fun _ => rfl

theorem State.HoldSound.answerIdentify (h : s.HoldSound) (p : Port) : (s.answerIdentify p).HoldSound :=
  h.answer fun r u sound => by rw [performIdentify_state]; exact sound

theorem State.HoldSound.answerNop (h : s.HoldSound) (p : Port) : (s.answerNop p).HoldSound :=
  h.answer fun r u sound => by rw [performNop_state]; exact sound

theorem performSetPush_holdSound (h : s.HoldSound) (p : Port) (r : Request) :
    (performSetPush p r s).1.HoldSound := by
  unfold performSetPush
  dsimp only
  split
  · exact h
  split
  · exact h
  · dsimp only
    exact h.modifyPort_same p fun _ => rfl

theorem State.HoldSound.answerSetPush (h : s.HoldSound) (p : Port) : (s.answerSetPush p).HoldSound := by
  unfold State.answerSetPush
  split
  · exact h
  · exact (h.answer fun r u sound => performSetPush_holdSound sound p r).reportReserved p _

theorem State.HoldSound.clearErrors (h : s.HoldSound) (p : Port) : (s.clearErrors p).HoldSound := by
  have cleared : (s.modifyPort p fun c => { c with errorRecord := none, fenced := false }).HoldSound :=
    h.modifyPort_same p fun _ => rfl
  unfold State.clearErrors
  dsimp only
  split
  · exact h
  · exact cleared.becomePresent p

theorem State.HoldSound.answerClearErrors (h : s.HoldSound) (p : Port) : (s.answerClearErrors p).HoldSound :=
  h.answer fun _ _ sound => sound.clearErrors p

theorem State.HoldSound.answerUnknown (h : s.HoldSound) (p : Port) : (s.answerUnknown p).HoldSound := by
  unfold State.answerUnknown
  split
  · exact h.modifyPort_same p fun _ => rfl
  · exact h
  · exact h

theorem State.HoldSound.answerHead (h : s.HoldSound) (p : Port) : (s.answerHead p).HoldSound := by
  unfold State.answerHead
  split
  · exact h
  · exact h.answerUnknown p
  · split
    · exact h.answerIdentify p
    · exact h.answerNop p
    · exact h.answerSetPush p
    · exact h.answerClearErrors p
    all_goals exact h

/-! ### Frames (R174) -/

theorem PortState.accept_presence (kind : Byte) (payload : List Byte) (arrival : Nat) (c : PortState) :
    (c.accept kind payload arrival).presence = c.presence := by
  unfold PortState.accept
  split_ifs <;> rfl

theorem State.HoldSound.frameArrives (h : s.HoldSound) (p : Port) : (s.frameArrives p).HoldSound := by
  have up : (s.modifyPort p fun c => { c with link := .up, badChecks := 0 }).HoldSound :=
    h.modifyPort_same p fun _ => rfl
  unfold State.frameArrives State.validFramePresence
  split
  · exact up
  · exact up.becomePresent p

theorem State.HoldSound.sortFrame (h : s.HoldSound) (p : Port) (kind : Byte) (payload : List Byte) :
    (s.sortFrame p kind payload).HoldSound := by
  have accepted : (s.modifyPort p (PortState.accept kind payload s.tickCount)).HoldSound :=
    h.modifyPort_same p (PortState.accept_presence kind payload s.tickCount)
  unfold State.sortFrame
  split
  · split
    · exact accepted
    · exact h.majorError p _ _
  · exact accepted.majorError p _ _

theorem State.HoldSound.validFrame (h : s.HoldSound) (p : Port) (kind : Byte) (payload : List Byte) :
    (s.validFrame p kind payload).HoldSound := by
  have sorted := (h.frameArrives p).sortFrame p kind payload
  unfold State.validFrame
  dsimp only
  split
  · exact sorted.answerHead p
  · exact sorted

theorem PortState.transmitTake_presence (c : PortState) : c.transmitTake.presence = c.presence := by
  unfold PortState.transmitTake PortState.takeNotice
  cases c.link with
  | down => rfl
  | up =>
    dsimp only
    split
    · rfl
    · split
      · split <;> rfl
      · split <;> rfl

end

end Sys2Proof.Machine
end

section
/-! PROOF. The hold and the COASTING cars under the race requests and the tick, and so under every command. -/
namespace Sys2Proof.Machine

section
variable {s : State}

/-- A refusal changes nothing; what a check lets through is left to say. -/
theorem State.HoldSound.checked {failed : Prop} [Decidable failed] {k : RequestKind} {code : ResultCode}
    {performed : State × Response} (h : s.HoldSound) (passes : ¬failed → performed.1.HoldSound) :
    (if failed then refuse k code s else performed).1.HoldSound := by
  split
  · exact h
  · next passed => exact passes passed

/-- A car in another state than COASTING joins or changes; no other car comes to coast. -/
theorem State.NoneCoasting.restands {t : State} {p : Port} {x : Standing} (none : s.NoneCoasting)
    (h : s.Restands p x t) (steady : x.state ≠ .coasting) : t.NoneCoasting := fun q => by
  rw [State.carState_eq]
  by_cases e : q = p
  · rw [e, h.own]
    cases s.standingOf p with
    | none => exact CarState.noConfusion
    | some y => exact steady
  · rw [h.others q e, ← State.carState_eq]
    exact none q

/-! ### The requests of FORMING (R5, R19 to R25, R46 to R49) -/

theorem State.NoneCoasting.appendEntry (none : s.NoneCoasting) (p : Port) : (s.appendEntry p).NoneCoasting :=
  fun q => by
    rw [State.carState_eq, State.appendEntry_standingOf]
    split
    · exact CarState.noConfusion
    · rw [← State.carState_eq]
      exact none q

theorem performOpenRace_holdSound (h : s.HoldSound) (p : Port) (r : Request) :
    (performOpenRace p r s).1.HoldSound := by
  refine h.checked fun _ => h.checked fun opens => ?_
  have none : (s.opened p).NoneCoasting := h.noneCoasting (by rw [not_not.mp opens]; rfl)
  show (s.openRace p).HoldSound
  rw [State.openRace_eq]
  exact ((State.notifyPhase_only _ _).trans (State.notifyRace_only _ _)).keepsHold.sound
    ((none.appendEntry p).holdSound (by simp [State.opened]))

theorem performSetRules_holdSound (h : s.HoldSound) (p : Port) (r : Request) :
    (performSetRules p r s).1.HoldSound := by
  unfold performSetRules
  split
  · exact h
  · dsimp only
    exact (State.modifyRace_keepsHold rfl rfl).sound h

theorem State.HoldSound.loadCourse (h : s.HoldSound) (forming : s.race.phase = .forming) (p : Port) (c : Course) :
    (s.loadCourse p c).HoldSound := by
  let loaded : State := { s with course := some c }
  have none : loaded.NoneCoasting := h.noneCoasting (by rw [forming]; rfl)
  unfold State.loadCourse
  dsimp only
  split
  · exact none.holdSound (by simp [loaded, forming])
  · refine (none.withdrawEach .courseChanged (s.otherEntered p)).holdSound ?_
    rw [(State.withdrawEach_keepsDistances .courseChanged (s.otherEntered p) loaded).2]
    simp [loaded, forming]

theorem performLoadCourse_holdSound (h : s.HoldSound) (p : Port) (r : Request) :
    (performLoadCourse p r s).1.HoldSound := by
  refine h.checked fun _ => h.checked fun started => h.checked fun free => h.checked fun _ => ?_
  split
  · exact h
  · exact h.loadCourse (Phase.forming_of_unlocked started free) p _

theorem performEnter_holdSound (h : s.HoldSound) (p : Port) (r : Request) : (performEnter p r s).1.HoldSound := by
  refine h.checked fun _ => h.checked fun _ => h.checked fun forming => h.checked fun _ => ?_
  have phase := not_not.mp forming
  split
  · exact h
  · refine h.checked fun _ => (State.notifyRace_only _ _).keepsHold.sound
      (((h.noneCoasting (by rw [phase]; rfl)).appendEntry p).holdSound ?_)
    rw [State.appendEntry_race, phase]
    decide

theorem performCarSetup_holdSound (h : s.HoldSound) (p : Port) (r : Request) :
    (performCarSetup p r s).1.HoldSound := by
  have changed : (s.modifyCar p (Car.setup r.payload)).HoldSound :=
    (State.modifyCar_keepsHold (f := Car.setup r.payload) fun _ _ => rfl).sound h
  refine h.checked fun _ => h.checked fun _ => ?_
  split
  · exact h
  · refine h.checked fun _ => h.checked fun _ => h.checked fun _ => ?_
    dsimp only
    split
    · exact changed
    · exact (State.notifyRace_only _ _).keepsHold.sound changed

theorem performCloseEntries_holdSound (h : s.HoldSound) (p : Port) (r : Request) :
    (performCloseEntries p r s).1.HoldSound :=
  h.checked fun _ => h.checked fun _ => h.checked fun forming => h.checked fun _ => h.checked fun _ =>
    (h.noneCoasting (by rw [not_not.mp forming]; rfl)).enterGrid

/-! ### READY and LEAVE (R50, R51) -/

theorem State.HoldSound.declareReady (h : s.HoldSound) (grid : s.race.phase = .grid) (p : Port) :
    (s.declareReady p).HoldSound := by
  have readied : s.Restands p .ready (s.readied p) := (s.modifyCar_restands p .ready).told (State.notifyRace_only _ _)
  have none := (h.noneCoasting (by rw [grid]; rfl)).restands readied CarState.noConfusion
  rw [State.declareReady_eq]
  split
  · exact none.enterCountdown
  · exact none.holdSound (by rw [readied.race, grid]; decide)

theorem performReady_holdSound (h : s.HoldSound) (p : Port) (r : Request) : (performReady p r s).1.HoldSound := by
  refine h.checked fun _ => h.checked fun _ => ?_
  split
  · exact h
  · exact h.checked fun grid => h.checked fun _ => h.declareReady (not_not.mp grid) p

theorem performLeave_holdSound (h : s.HoldSound) (p : Port) (r : Request) : (performLeave p r s).1.HoldSound := by
  refine h.checked fun _ => ?_
  cases phase : s.race.phase with
  | idle => exact h
  | forming | grid | countdown =>
    dsimp only
    split
    · exact (h.noneCoasting (by rw [phase]; rfl)).withdrawAndTest p _
    · exact h
  | green | finishing =>
    dsimp only
    split
    · exact h
    · exact h.checked fun _ => h.retire (by rw [phase]; rfl) p _
  | results =>
    dsimp only
    split
    · exact h.release p
    · exact h

/-! ### REPORT and CLEAR_FLAGS (R66 to R84, R88) -/

/-- A car that may finish does not come to coast. -/
theorem State.MayFinish.coasting {t : State} {p : Port} (h : s.MayFinish p t) {q : Port}
    (coasts : t.carState q = .coasting) : s.carState q = .coasting := by
  rw [State.carState_eq] at coasts ⊢
  by_cases e : q = p
  · rw [e] at coasts ⊢
    rcases h.own with same | ⟨-, time, finished⟩
    · rwa [same] at coasts
    · rw [finished] at coasts
      exact absurd coasts CarState.noConfusion
  · rwa [h.others q e] at coasts

theorem State.HoldSound.fullApplication (h : s.HoldSound) (running : s.race.phase.running = true) (p : Port)
    (r : Request) : (s.fullApplication p r).HoldSound := by
  have after := Phase.afterGreen_of_running running
  unfold State.fullApplication
  split
  · next c course _ _ =>
    dsimp only
    have applied := s.applyDelta_mayFinish p c course s.raceClock (reportDelta r.payload) after
    have booked := State.bookReport_sameStandings
      (s.applyDelta p c course s.raceClock (reportDelta r.payload)) p s.raceClock c.distance s.runningOrder
      (by rw [applied.race]; exact after)
    have finishes := applied.trans ((booked.trans (State.storePose_sameStandings _ p r)).mayFinish p)
    have told := ((s.applyDelta_tellsPorts p c course s.raceClock (reportDelta r.payload)).trans
      (State.bookReport_tellsPorts _ p s.raceClock c.distance s.runningOrder)).trans
      (State.storePose_tellsPorts _ p r)
    have stored := h.of_running (by rw [finishes.race]; exact running) (fun q => by rw [told.ports q])
      fun _ => finishes.coasting
    split
    · exact stored.endTests true
    · exact stored
  · exact h

theorem State.HoldSound.applyReport (h : s.HoldSound) (p : Port) (r : Request) : (s.applyReport p r).HoldSound := by
  have posed := (s.storePose_sameStandings p r).keepsHold (s.storePose_tellsPorts p r)
  unfold State.applyReport
  split
  · exact ((s.countdownReport_sameStandings p r).keepsHold (s.countdownReport_tellsPorts p r)).sound h
  · next green _ => exact h.fullApplication (by rw [green]; rfl) p r
  · next finishing _ => exact h.fullApplication (by rw [finishing]; rfl) p r
  · exact posed.sound h
  · exact posed.sound h
  · exact h

theorem performReport_holdSound (h : s.HoldSound) (p : Port) (r : Request) :
    (performReport p r s).1.HoldSound := by
  refine h.checked fun _ => h.checked fun _ => ?_
  split
  · exact h
  · exact h.checked fun _ => h.checked fun _ => h.applyReport p r

theorem performClearFlags_holdSound (h : s.HoldSound) (p : Port) (r : Request) :
    (performClearFlags p r s).1.HoldSound := by
  refine h.checked fun _ => h.checked fun _ => ?_
  split
  · exact h
  · refine h.checked fun _ => (State.modifyCar_keepsHold ?_).sound h
    exact fun _ _ => rfl

/-! ### Votes (R122 to R124) -/

theorem performAbortVote_holdSound (h : s.HoldSound) (p : Port) (r : Request) :
    (performAbortVote p r s).1.HoldSound := by
  refine h.checked fun _ => h.checked fun _ => ?_
  split
  · exact h
  · refine h.checked fun _ => h.checked fun _ => ?_
    dsimp only
    split
    · exact State.enterResults_holdSound _ _
    · exact (s.castVote_keepsHold p).sound h

theorem performWithdrawVote_holdSound (h : s.HoldSound) (p : Port) (r : Request) :
    (performWithdrawVote p r s).1.HoldSound :=
  h.checked fun _ => h.checked fun _ => h.checked fun _ => h.checked fun _ => (s.removeVote_keepsHold p).sound h

/-! ### The tick (R17, R31, R35) -/

/-- What each port's expiry keeps, the expiries of all ports keep. -/
theorem State.HoldSound.foldl {expiry : State → Port → State} (h : s.HoldSound)
    (keeps : ∀ (u : State) (p : Port), u.HoldSound → (expiry u p).HoldSound) (ports : List Port) :
    (ports.foldl expiry s).HoldSound :=
  List.foldlRecOn ports expiry h fun u sound p _ => keeps u p sound

theorem State.HoldSound.takeDue (h : s.HoldSound) : s.takeDue.HoldSound := by
  have timers := h.entryWindowExpiry.gridWaitExpiry.countdownExpiry.closingWindowExpiry.resultsHoldExpiry
  have votes := timers.foldl (fun u p sound => (u.voteExpiry_keepsHold p).sound sound) allPorts
  have first := votes.foldl (fun _ p sound => sound.silenceFirstStageExpiry p) allPorts
  have second := first.foldl (fun _ p sound => sound.silenceSecondStageExpiry p) allPorts
  exact second.foldl (fun _ p sound => sound.pushTimerExpiry p) allPorts

/-- A tick counts the timers and changes no presence. -/
theorem State.countTick_keepsHold (s : State) : s.KeepsHold s.countTick :=
  ⟨rfl, rfl, fun _ => rfl, fun q => by rw [State.countTick_port]; rfl⟩

theorem State.HoldSound.tick (h : s.HoldSound) : s.tick.HoldSound := by
  unfold State.tick
  split
  · exact State.enterResults_holdSound _ _
  · exact (State.countTick_keepsHold _).sound h.takeDue

end

/-! ### Every command -/

theorem State.reset_holdSound : State.reset.HoldSound := by
  refine State.NoneCoasting.holdSound (fun q => ?_) (by decide)
  simp [State.carState, State.car, State.reset]

/-- Every command keeps the hold and the COASTING cars with the presence of their ports. -/
theorem exec_holdSound (command : Instr) {s : State} (h : s.HoldSound) :
    ∃ t : State, exec command s = .next t ∧ t.HoldSound := by
  cases command with
  | openRace p => exact ⟨_, rfl, h.grant fun r _ sound => performOpenRace_holdSound sound p r⟩
  | setRules p =>
    have done := h.grant (p := p) (kind := .setRules) fun r _ sound => performSetRules_holdSound sound p r
    refine ⟨_, rfl, ?_⟩
    split
    · exact h
    · split
      · exact done.entryWindowExpiry
      · exact done
  | loadCourse p => exact ⟨_, rfl, h.grant fun r _ sound => performLoadCourse_holdSound sound p r⟩
  | enter p => exact ⟨_, rfl, h.grant fun r _ sound => performEnter_holdSound sound p r⟩
  | carSetup p =>
    refine ⟨_, rfl, ?_⟩
    split
    · exact h
    · exact (h.grant fun r _ sound => performCarSetup_holdSound sound p r).reportReserved p _
  | closeEntries p => exact ⟨_, rfl, h.grant fun r _ sound => performCloseEntries_holdSound sound p r⟩
  | ready p => exact ⟨_, rfl, h.grant fun r _ sound => performReady_holdSound sound p r⟩
  | leave p => exact ⟨_, rfl, h.grant fun r _ sound => performLeave_holdSound sound p r⟩
  | report p => exact ⟨_, rfl, h.grant fun r _ sound => performReport_holdSound sound p r⟩
  | clearFlags p => exact ⟨_, rfl, h.grant fun r _ sound => performClearFlags_holdSound sound p r⟩
  | snapshot p => exact ⟨_, rfl, h.grant fun r u sound => by rw [performSnapshot_state]; exact sound⟩
  | readLaps p => exact ⟨_, rfl, h.grant fun r u sound => by rw [performReadLaps_state]; exact sound⟩
  | readResults p => exact ⟨_, rfl, h.grant fun r u sound => by rw [performReadResults_state]; exact sound⟩
  | abortVote p => exact ⟨_, rfl, h.grant fun r _ sound => performAbortVote_holdSound sound p r⟩
  | withdrawVote p => exact ⟨_, rfl, h.grant fun r _ sound => performWithdrawVote_holdSound sound p r⟩
  | identify p => exact ⟨_, rfl, h.answerIdentify p⟩
  | nop p => exact ⟨_, rfl, h.answerNop p⟩
  | setPush p => exact ⟨_, rfl, h.answerSetPush p⟩
  | clearErrors p => exact ⟨_, rfl, h.answerClearErrors p⟩
  | unknownFrameAnswer p => exact ⟨_, rfl, h.answerUnknown p⟩
  | validFrame p kind payload =>
    refine ⟨_, rfl, ?_⟩
    split
    · exact h.validFrame p kind payload
    · exact h.badLengthFrame p
  | badCheckFrame p => exact ⟨_, rfl, h.badCheckFrame p⟩
  | badLengthFrame p => exact ⟨_, rfl, h.badLengthFrame p⟩
  | resynchronisingCandidateDiscard p => exact ⟨_, rfl, h⟩
  | lossOfSignal p => exact ⟨_, rfl, h.lossOfSignal p⟩
  | hardwareReset =>
    exact ⟨_, rfl, ((State.reset.setPending_sameRace s.pending).keepsHold fun _ => rfl).sound
      State.reset_holdSound⟩
  | entryWindowExpiry => exact ⟨_, rfl, h.entryWindowExpiry⟩
  | gridWaitExpiry => exact ⟨_, rfl, h.gridWaitExpiry⟩
  | countdownExpiry => exact ⟨_, rfl, h.countdownExpiry⟩
  | closingWindowExpiry => exact ⟨_, rfl, h.closingWindowExpiry⟩
  | raceLimit =>
    refine ⟨_, rfl, ?_⟩
    split
    · exact State.enterResults_holdSound _ _
    · exact h
  | resultsHoldExpiry => exact ⟨_, rfl, h.resultsHoldExpiry⟩
  | voteExpiry p => exact ⟨_, rfl, (s.voteExpiry_keepsHold p).sound h⟩
  | silenceFirstStageExpiry p => exact ⟨_, rfl, h.silenceFirstStageExpiry p⟩
  | silenceSecondStageExpiry p => exact ⟨_, rfl, h.silenceSecondStageExpiry p⟩
  | pushTimerExpiry p => exact ⟨_, rfl, h.pushTimerExpiry p⟩
  | transmitTake p => exact ⟨_, rfl, h.modifyPort_same p PortState.transmitTake_presence⟩
  | tick => exact ⟨_, rfl, h.tick⟩

/-- Settles O7: the command at the front of the queue keeps the hold sound, and so does an idle step. -/
theorem stepKeepsHoldSound : Obligations.StepKeepsHoldSound := by
  intro s t _ hold stepped
  unfold step at stepped
  split at stepped
  · obtain rfl := Host.Outcome.next.inj stepped
    exact hold
  · next command rest _ =>
    obtain ⟨u, performed, sound⟩ := exec_holdSound command
      (((s.setPending_sameRace rest).keepsHold fun _ => rfl).sound hold)
    obtain rfl := Host.Outcome.next.inj (performed.symm.trans stepped)
    exact sound

end Sys2Proof.Machine
end

section
/-! PROOF. Votes (06 section 6.2): WITHDRAW_VOTE and ABORT_VOTE between the two ends of their grants, and the
expiry of a vote; with it the expiry of a push timer (R123 to R128, R157). -/
namespace Sys2Proof.Machine

/-! ### The vote set (R121, R123 to R125) -/

/-- Dropping a vote that is held lowers the vote count by 1 (R124, R125). -/
theorem State.dropVote_voteCount {s : State} {p : Port} (held : (s.race.votes.get p).isSome = true) :
    (s.dropVote p).voteCount + 1 = s.voteCount :=
  (Bank.count_of_loses (p := p) (fun _ other => Bank.get_set_ne _ _ other) held
    (by simp)).symm

/-- A port without a vote has none to drop. -/
theorem State.dropVote_none {s : State} {p : Port} (none : s.race.votes.get p = .none) : s.dropVote p = s := by
  have same : s.race.votes.set p .none = s.race.votes := by rw [← none, Bank.set_get]
  unfold State.dropVote State.modifyRace
  dsimp only
  rw [same]

/-- A VOTE notice goes to the race ports, with both counts as they stand (R128). -/
theorem State.notifyVotes_told (s : State) :
    s.Told (fun q => noticeIf (s.isRacePort q) (.vote s.voteCount s.eligibleCount)) s.notifyVotes :=
  State.notifyRace_told _ s

/-- The vote of a port is removed, and a vote that was held is told of (R124, R128). -/
theorem State.removeVote_told (s : State) (p : Port) :
    (s.dropVote p).Told (fun q => noticeIf (s.isRacePort q && (s.race.votes.get p).isSome)
      (.vote (s.dropVote p).voteCount s.eligibleCount)) (s.removeVote p) := by
  unfold State.removeVote
  cases held : s.race.votes.get p with
  | none =>
    rw [State.dropVote_none held]
    exact (State.Told.refl s).congr fun q => by rw [Option.isSome_none, Bool.and_false]; rfl
  | some castTime =>
    exact (State.notifyVotes_told (s.dropVote p)).congr fun q => by rw [Option.isSome_some, Bool.and_true]; rfl

/-- The race with the vote of a port cast or renewed at the race clock (R123). -/
def State.withVote (p : Port) (s : State) : State :=
  s.modifyRace fun x => { x with votes := x.votes.set p (some s.raceClock) }

/-- The vote of a port is cast or renewed, and a new vote is told of (R123, R128). -/
theorem State.castVote_told (s : State) (p : Port) :
    (s.withVote p).Told (fun q => noticeIf (s.isRacePort q && decide (s.race.votes.get p = none))
      (.vote (s.withVote p).voteCount s.eligibleCount)) (s.castVote p) := by
  unfold State.castVote
  cases held : s.race.votes.get p with
  | none =>
    exact (State.notifyVotes_told (s.withVote p)).congr fun q => by rw [decide_eq_true rfl, Bool.and_true]; rfl
  | some castTime => exact (State.Told.refl (s.withVote p)).congr fun q => by simp [noticeIf]

/-! ### The expiries of a vote and of a push timer (R125, R157) -/

/-- Settles O59: the vote is due, so it is dropped and told of; the push timer is at 0. -/
theorem voteAndPushTimerExpiries : Obligations.VoteAndPushTimerExpiries := by
  refine ⟨fun s p castTime running vote ran => ?_, fun s p out => congrArg _ (if_pos out)⟩
  have due : s.voteDue p = true := by
    unfold State.voteDue
    rw [running, vote]
    exact decide_eq_true ran
  have told := State.notifyVotes_told (s.dropVote p)
  have runs : exec (.voteExpiry p) s = .next (s.dropVote p).notifyVotes := congrArg _ (if_pos due)
  refine ⟨_, runs, told.rest, State.dropVote_voteCount (by rw [vote]; rfl), fun q => ?_⟩
  rw [PortState.offerIf_eq_offerAll]
  exact told.ports q

/-! ### WITHDRAW_VOTE (R124) -/

theorem performWithdrawVote_accepted {s : State} {p : Port} {c : Car} (r : Request)
    (free : (s.port p).fenced = false) (running : s.race.phase.running = true) (car : s.car p = some c) :
    performWithdrawVote p r s =
      (s.removeVote p, .withdrawVote (s.dropVote p).voteCount s.eligibleCount) := by
  have told := s.removeVote_told p
  have counts : (s.removeVote p).voteCount = (s.dropVote p).voteCount ∧
      (s.removeVote p).eligibleCount = s.eligibleCount := by
    rw [told.rest]
    exact ⟨rfl, rfl⟩
  unfold performWithdrawVote
  rw [if_neg (by simp [free]), if_neg (Phase.ne_idle_of_running running),
    if_neg (by simp [State.isRacePort, car]), if_neg (by simp [running])]
  dsimp only
  rw [counts.1, counts.2]

/-- Settles O38: each check answers by itself, and past them the vote is removed between the two ends of the
grant. -/
theorem withdrawVoteRemovesTheVote : Obligations.WithdrawVoteRemovesTheVote := by
  intro s p r granted
  let v := s.requestTaken p
  have unfenced (free : (s.port p).fenced = false) : (v.port p).fenced = false :=
    (s.requestTaken_fenced p p).trans free
  have passes (free : (s.port p).fenced = false) : ¬(v.port p).fenced = true := ne_true_of_eq_false (unfenced free)
  have answers {code : ResultCode} (done : performWithdrawVote p r v = refuse .withdrawVote code v) :
      exec (.withdrawVote p) s = .next (s.answered p (.bare .withdrawVote code)) :=
    congrArg Host.Outcome.next (State.grant_answered granted done)
  refine ⟨fun fenced => answers (if_pos ((s.requestTaken_fenced p p).trans fenced)), fun free idle => answers ?_,
    fun free started out => answers ?_, fun c free started car waits => answers ?_,
    fun c free running car => ?_⟩
  · exact (if_neg (passes free)).trans (if_pos idle)
  · refine (if_neg (passes free)).trans ((if_neg started).trans (if_pos ?_))
    rw [s.requestTaken_isRacePort, State.isRacePort, out]
    rfl
  · refine (if_neg (passes free)).trans ((if_neg started).trans
      ((if_neg ?_).trans (if_pos ?_)))
    · rw [s.requestTaken_isRacePort, State.isRacePort, car]
      exact Bool.false_ne_true
    · show (!s.race.phase.running) = true
      rw [waits]
      rfl
  · have done := performWithdrawVote_accepted (s := v) r (unfenced free) running car
    have told := v.removeVote_told p
    have rest := told.rest
    have runs : exec (.withdrawVote p) s = .next ((v.removeVote p).responsePlaced p
        (.withdrawVote (v.dropVote p).voteCount s.eligibleCount)) := congrArg _ (State.grant_ends granted done)
    have count : ((v.removeVote p).responsePlaced p
        (.withdrawVote (v.dropVote p).voteCount s.eligibleCount)).voteCount = (v.dropVote p).voteCount := by
      show (v.removeVote p).voteCount = _
      rw [rest]
      rfl
    refine ⟨_, runs, ?_, ?_, fun q => ?_⟩
    · generalize v.removeVote p = u at rest
      rw [rest]
      rfl
    · rw [count]
      refine State.grantFrame_of_notices granted done (fun q => ?_) ?_ ?_ ?_
      · rw [told.ports]
        exact PortState.offerAll_same _ _
      all_goals rw [rest]
      · exact id
      · rfl
      · rfl
    · rw [count, PortState.offerIf_eq_offerAll]
      exact State.grant_sameNotices _ (told.ports q) (s.requestTaken_link p q) (s.requestTaken_sameNotices p q)

/-! ### ABORT_VOTE (R123, R126, R127) -/

/-- What an accepted ABORT_VOTE does once its vote is cast: a majority ends the race (R126, R127). -/
def State.abortTested (s : State) : State := if s.thresholdMet then s.enterResults .aborted else s

theorem State.abortTested_short {s : State} (short : 2 * s.voteCount ≤ s.eligibleCount) : s.abortTested = s :=
  if_neg fun met => absurd (s.thresholdMet_iff.mp met) (Nat.not_lt.mpr short)

theorem State.abortTested_majority {s : State} (majority : s.eligibleCount < 2 * s.voteCount) :
    s.abortTested = s.enterResults .aborted :=
  if_pos (s.thresholdMet_iff.mpr majority)

theorem performAbortVote_accepted {s : State} {p : Port} {c : Car} (r : Request)
    (free : (s.port p).fenced = false) (running : s.race.phase.running = true) (car : s.car p = some c)
    (counts : c.standing.eligible = true) :
    performAbortVote p r s = ((s.castVote p).abortTested,
      .abortVote (s.withVote p).voteCount s.eligibleCount (s.castVote p).abortTested.race.phase) := by
  have told := s.castVote_told p
  have same : (s.castVote p).voteCount = (s.withVote p).voteCount ∧
      (s.castVote p).eligibleCount = s.eligibleCount := by
    rw [told.rest]
    exact ⟨rfl, rfl⟩
  have stays : c.standing.isRetired = false := by
    cases standing : c.standing <;> simp_all [Standing.eligible, Standing.isRetired]
  unfold performAbortVote
  rw [if_neg (by simp [free]), if_neg (Phase.ne_idle_of_running running), car]
  dsimp only
  rw [if_neg (by simp [running]), if_neg (by simp [stays]), same.1, same.2]
  rfl

/-- The entry into RESULTS changes the race record, the cars and the results table, and the ports by notices. -/
theorem State.EnteredResults.rest {s t : State} {reason : Reason} (h : s.EnteredResults reason t) :
    t = { s with race := t.race, cars := t.cars, resultsTable := t.resultsTable, ports := t.ports } := by
  obtain ⟨entries, active, retired, finished⟩ := h.order
  obtain ⟨clock, ticks⟩ := h.clock
  obtain ⟨commands, pointer⟩ := h.others
  rw [← entries, ← active, ← retired, ← finished, ← clock, ← ticks, ← commands, ← pointer, ← h.course]

theorem State.EnteredResults.same {s t : State} {reason : Reason} (h : s.EnteredResults reason t) (q : Port) :
    (s.port q).SameButNotices (t.port q) := by
  rw [h.ports, PortState.offerIf_eq_offerAll]
  exact PortState.offerAll_same _ _

/-- The results table depends on the cars, the finish list and the two groups alone (R106 to R108). -/
theorem State.buildResults_congr {s t : State} (cars : t.cars = s.cars) (finished : t.finishList = s.finishList)
    (active : t.activeGroup = s.activeGroup) (retired : t.retiredGroup = s.retiredGroup) (reason : Reason) :
    t.buildResults reason = s.buildResults reason := by
  have car : t.car = s.car := funext fun q => congrArg (Bank.get · q) cars
  have penalty : ∀ q, t.penalty q = s.penalty q := fun q => by
    unfold State.penalty
    rw [car]
  unfold State.buildResults State.classification
  rw [car, finished, active, retired, State.byTotal_congr penalty]

/-- Settles O37: the vote is cast and the threshold tested between the two ends of the grant. -/
theorem abortVoteCountsTowardTheThreshold : Obligations.AbortVoteCountsTowardTheThreshold := by
  intro s p r c cast granted free running car counts same
  obtain rfl : cast = s.withVote p := same
  let v := s.requestTaken p
  let u := v.castVote p
  have done : performAbortVote p r v = (u.abortTested,
      .abortVote (s.withVote p).voteCount s.eligibleCount u.abortTested.race.phase) :=
    performAbortVote_accepted r ((s.requestTaken_fenced p p).trans free) running car counts
  have told := v.castVote_told p
  have rest : u = { v with race := (s.withVote p).race, ports := u.ports } := told.rest
  have votes : u.voteCount = (s.withVote p).voteCount := by rw [rest]; rfl
  have eligible : u.eligibleCount = s.eligibleCount := by rw [rest]; rfl
  have phase : u.race.phase = s.race.phase := by rw [rest]; rfl
  have offered : ∀ q : Port, (v.port q).SameButNotices (u.port q) := fun q => by
    rw [told.ports]
    exact PortState.offerAll_same _ _
  have short_stays (short : 2 * (s.withVote p).voteCount ≤ s.eligibleCount) : u.abortTested = u :=
    State.abortTested_short (by rw [votes, eligible]; exact short)
  have majority_ends (majority : s.eligibleCount < 2 * (s.withVote p).voteCount) :
      u.abortTested = u.enterResults .aborted :=
    State.abortTested_majority (by rw [votes, eligible]; exact majority)
  have runs : exec (.abortVote p) s = .next (u.abortTested.responsePlaced p
      (.abortVote (s.withVote p).voteCount s.eligibleCount u.abortTested.race.phase)) :=
    congrArg _ (State.grant_ends granted done)
  refine ⟨fun short => ?_, fun majority awaited => ?_, u, u.abortTested, rest, told.ports, short_stays,
    fun majority => ?_, runs⟩
  · rw [short_stays short, phase] at runs done
    refine ⟨_, runs, ?_, ?_, fun q => ?_⟩
    · generalize u = w at rest
      rw [rest]
      rfl
    · refine State.grantFrame_of_notices granted done offered ?_ ?_ ?_
      · rw [phase]; exact id
      · rw [rest]; rfl
      · rw [rest]; rfl
    · rw [PortState.offerIf_eq_offerAll]
      exact State.grant_sameNotices _ (told.ports q) (s.requestTaken_link p q) (s.requestTaken_sameNotices p q)
  · obtain ⟨q, racing, kept⟩ := awaited
    have presence : ∀ q : Port, (u.port q).presence = (s.port q).presence := fun q => by
      rw [offered q]
      show ((s.requestTaken p).port q).presence = _
      rw [State.requestTaken_same]
    have racePort : ∀ q : Port, u.isRacePort q = s.isRacePort q := fun q => by rw [rest]; rfl
    have entered : u.EnteredResults .aborted u.abortTested := by
      rw [majority_ends majority]
      exact State.enterResults_spec .aborted ((racePort q).trans racing) (by rw [presence]; exact kept)
    have ends : u.abortTested.race.phase = .results := by rw [entered.race]
    have record := entered.race
    have table := entered.table
    rw [ends] at runs done
    refine ⟨_, runs, ?_, ?_, fun x => ?_, fun x => ?_, ?_, ?_⟩
    · have results := entered.rest
      generalize u.abortTested = w at results
      rw [results, rest]
      rfl
    · refine record.trans ?_
      rw [rest]
      rfl
    · refine (entered.released x).trans ?_
      rw [racePort, presence]
    · refine (entered.cars x).trans ?_
      rw [rest]
      rfl
    · refine table.trans (congrArg some (State.buildResults_congr ?_ ?_ ?_ ?_ _))
      all_goals
        rw [rest]
        rfl
    · refine State.grantFrame_of_notices granted done (fun x => (offered x).trans (entered.same x)) ?_ ?_ ?_
      · rw [ends]; exact fun idle => absurd idle (by decide)
      · rw [entered.clock.2, rest]; rfl
      · rw [entered.others.1, rest]; rfl
  · rw [majority_ends majority]
    exact State.enterResults_came .aborted u

end Sys2Proof.Machine
end

section
/-! PROOF. A hold of the countdown (06 section 6.1): a READY car's port that goes LATE begins it, and the
port's return ends it (R114, R115, R118). -/
namespace Sys2Proof.Machine

/-! ### A REPORT that arrives (R174 to R176) -/

theorem RequestKind.ofCode_report : RequestKind.ofCode RequestKind.report.code = some .report := rfl

/-- An allowed REPORT is no longer than a frame can be (R172). -/
theorem RequestKind.report_length_le {payload : List Byte}
    (allowed : RequestKind.report.lengthAllowed payload = true) :
    payload.length ≤ maxPayload := by
  have length : payload.length = 4 ∨ payload.length = 16 := of_decide_eq_true allowed
  unfold maxPayload
  omega

/-- A frame that meets an empty request queue is its whole queue (R175). -/
theorem PortState.accept_requestQueue_of_empty {c : PortState} (kind : Byte) (payload : List Byte) (arrival : Nat)
    (empty : c.requestQueue = []) :
    (c.accept kind payload arrival).requestQueue = [queuedFrame kind payload arrival] := by
  unfold PortState.accept
  rw [if_pos (by rw [empty]; decide), empty, List.nil_append]

/-- A request that is not the port's own to answer waits for its grant (R63, R176). -/
theorem State.answerHead_waits {s : State} {p : Port} {r : Request} (queue : (s.port p).requestQueue = [.request r])
    (waits : r.kind.portLocal = false) : s.answerHead p = s := by
  have head : (s.port p).head = none ∨ (s.port p).head = some (.request r) := by
    unfold PortState.head
    rw [queue]
    split
    · exact .inr rfl
    · exact .inl rfl
  unfold State.answerHead
  obtain none | request := head
  · rw [none]
  · rw [request]
    dsimp only
    split <;> simp_all [RequestKind.portLocal]

/-- An allowed REPORT acts on the link and the presence, and is then queued (R174, R175). -/
theorem exec_validFrame_report (s : State) (p : Port) {payload : List Byte}
    (allowed : RequestKind.report.lengthAllowed payload = true) :
    exec (.validFrame p RequestKind.report.code payload) s = .next ((s.frameArrives p).modifyPort p
      (PortState.accept RequestKind.report.code payload (s.frameArrives p).tickCount)) := by
  have sorted : (s.frameArrives p).sortFrame p RequestKind.report.code payload = (s.frameArrives p).modifyPort p
      (PortState.accept RequestKind.report.code payload (s.frameArrives p).tickCount) := by
    unfold State.sortFrame
    rw [RequestKind.ofCode_report]
    exact if_pos allowed
  have runs : exec (.validFrame p RequestKind.report.code payload) s =
      .next (s.validFrame p RequestKind.report.code payload) :=
    congrArg _ (if_pos (RequestKind.report_length_le allowed))
  rw [runs]
  unfold State.validFrame
  dsimp only
  rw [sorted]
  split
  · next empty =>
    refine congrArg _ (State.answerHead_waits (r := ⟨.report, payload, (s.frameArrives p).tickCount⟩) ?_ rfl)
    rw [State.modifyPort_port_self]
    exact PortState.accept_requestQueue_of_empty _ _ _ empty
  · rfl

/-! ### The hold begins and ends (R114, R115, R118) -/

/-- The hold begins as the port of a READY car goes LATE. -/
theorem State.goLate_begins_hold {s : State} {p : Port} {left : Nat} (reason : Reason)
    (count : s.race.phase = .countdown) (ready : s.carState p = .ready) (unheld : s.race.holdSlot = none)
    (timer : s.race.countdown = some left) (one : 1 ≤ left) :
    s.goLate p reason = { s with
      race := { s.race with holdSlot := some left, countdown := none }, ports := (s.goLate p reason).ports } ∧
    ((s.goLate p reason).port p).presence = .late ∧
    ∀ q : Port, ((s.port q).offerIf (s.isPresentPort q && decide (q ≠ p))
      (.phase .held s.race.number)).SameNotices ((s.goLate p reason).port q) := by
  let u := s.modifyPort p fun c => { c with presence := .late, silence := .second secondStageLength }
  have own : (u.port p).presence = .late := by rw [State.modifyPort_port_self]
  have tested : u.HoldTested (s.goLate p reason) := (u.lateEffects_spec p reason).holds count ready
  obtain ⟨rest, ports⟩ := tested.begins unheld ⟨p, ready, own⟩ left timer one
  refine ⟨rest, ?_, fun q => ?_⟩
  · rw [ports, PortState.offerAll_presence, own]
  · have present : u.isPresentPort q = (s.isPresentPort q && decide (q ≠ p)) := by
      unfold State.isPresentPort
      by_cases same : q = p
      · rw [same, own]; simp
      · rw [s.modifyPort_port_ne _ same]; simp [same]
    have unheard : (u.port q).link = (s.port q).link ∧ (s.port q).SameNotices (u.port q) := by
      by_cases same : q = p
      · rw [same, s.modifyPort_port_self]; exact ⟨rfl, rfl, rfl⟩
      · rw [s.modifyPort_port_ne _ same]; exact ⟨rfl, rfl, rfl⟩
    obtain ⟨link, notices⟩ := unheard
    rw [ports, present, PortState.offerIf_eq_offerAll]
    exact PortState.offerAll_sameNotices _ link notices

/-- The hold ends as the only LATE port of a READY car is heard again. -/
theorem State.frameArrives_ends_hold {s : State} {p : Port} {saved : Nat} (free : (s.port p).fenced = false)
    (late : (s.port p).presence = .late) (count : s.race.phase = .countdown) (ready : s.carState p = .ready)
    (held : s.race.holdSlot = some saved)
    (alone : ∀ q : Port, q ≠ p → s.carState q = .ready → (s.port q).presence ≠ .late) :
    s.frameArrives p = { s with
      race := { s.race with holdSlot := none, countdown := some saved }, ports := (s.frameArrives p).ports } ∧
    ((s.frameArrives p).port p).presence = .present := by
  let w := s.modifyPort p fun c =>
    { c with link := .up, badChecks := 0, presence := .present, silence := .first 250 }
  have own : (w.port p).presence = .present := by rw [State.modifyPort_port_self]
  have heard : ¬w.SomeReadyLate := by
    rintro ⟨q, waiting, silent⟩
    by_cases same : q = p
    · rw [same, own] at silent
      cases silent
    · rw [s.modifyPort_port_ne _ same] at silent
      exact alone q same waiting silent
  have tested : w.HoldTested (s.frameArrives p) := ((s.frameArrives_spec p).returns free late).resumes count ready
  obtain ⟨rest, ports⟩ := tested.resumes saved held heard
  refine ⟨rest, ?_⟩
  rw [ports, PortState.offerAll_presence, own]

/-- Settles O53: the expired first stage makes the port LATE, which begins the hold; the REPORT makes it PRESENT,
which ends the hold, and is then queued. -/
theorem countdownHoldsAndResumes : Obligations.CountdownHoldsAndResumes := by
  refine ⟨fun s p left out count ready free timer one => ⟨s.goLate p .silent, congrArg _ (if_pos out),
    State.goLate_begins_hold .silent count ready free timer one⟩,
    fun s p saved payload free late count ready held alone allowed => ?_⟩
  obtain ⟨rest, present⟩ := State.frameArrives_ends_hold free late count ready held alone
  refine ⟨_, exec_validFrame_report s p allowed, ?_, ?_⟩
  · generalize s.frameArrives p = v at rest
    rw [rest]
    rfl
  · rw [State.modifyPort_port_self, PortState.accept_presence, present]

end Sys2Proof.Machine
end

section
/-! PROOF. The refusals (R143, R177, and the checks of each request in their order): a request that a check turns
away is answered with its code, and nothing else is done. -/
namespace Sys2Proof.Machine

/-! ### A request that is refused (R177) -/

/-- What a request of each kind does once it is granted or answered. -/
def RequestKind.perform (p : Port) : RequestKind → Request → State → State × Response
  | .openRace => performOpenRace p
  | .setRules => performSetRules p
  | .loadCourse => performLoadCourse p
  | .enter => performEnter p
  | .carSetup => performCarSetup p
  | .closeEntries => performCloseEntries p
  | .ready => performReady p
  | .leave => performLeave p
  | .report => performReport p
  | .clearFlags => performClearFlags p
  | .snapshot => performSnapshot p
  | .readLaps => performReadLaps p
  | .readResults => performReadResults p
  | .abortVote => performAbortVote p
  | .withdrawVote => performWithdrawVote p
  | .identify => performIdentify p
  | .nop => performNop p
  | .setPush => performSetPush p
  | .clearErrors => performClearErrors p

/-- The check of SET_RULES that fails, by what its request is answered. -/
theorem State.rulesRefusal_of_refused {s : State} {p : Port} {r : Request} {code : ResultCode}
    (refused : performSetRules p r (s.requestTaken p) = refuse .setRules code (s.requestTaken p)) :
    s.rulesRefusal p r ≠ none := by
  intro passes
  have same : (s.requestTaken p).rulesRefusal p r = s.rulesRefusal p r := by
    unfold State.rulesRefusal
    rw [s.requestTaken_fenced]
    rfl
  unfold performSetRules at refused
  rw [same, passes] at refused
  cases congrArg Prod.snd refused

/-- A granted request that its performance refuses is answered with the code alone (R61, R177). -/
theorem exec_refused {s : State} {p : Port} {k : RequestKind} {r : Request} {c : Instr} {code : ResultCode}
    (granted : s.granted p k = some r) (reserved : k.reservedNonzero r.payload = false)
    (listed : (k, c) ∈ raceRequests p)
    (refused : k.perform p r (s.requestTaken p) = refuse k code (s.requestTaken p)) :
    exec c s = .next (s.answered p (.bare k code)) := by
  have answers : s.grant p k (k.perform p) = s.answered p (.bare k code) := State.grant_answered granted refused
  simp only [raceRequests, List.mem_cons, Prod.mk.injEq, List.not_mem_nil, or_false] at listed
  rcases listed with ⟨rfl, rfl⟩ | ⟨rfl, rfl⟩ | ⟨rfl, rfl⟩ | ⟨rfl, rfl⟩ | ⟨rfl, rfl⟩ | ⟨rfl, rfl⟩ |
    ⟨rfl, rfl⟩ | ⟨rfl, rfl⟩ | ⟨rfl, rfl⟩ | ⟨rfl, rfl⟩ | ⟨rfl, rfl⟩ | ⟨rfl, rfl⟩ | ⟨rfl, rfl⟩ |
    ⟨rfl, rfl⟩ | ⟨rfl, rfl⟩
  case inr.inl =>
    show Host.Outcome.next _ = _
    rw [granted]
    dsimp only
    rw [if_neg fun passes => State.rulesRefusal_of_refused refused passes.1]
    exact congrArg _ answers
  case inr.inr.inr.inr.inl =>
    show Host.Outcome.next _ = _
    rw [granted]
    dsimp only
    rw [State.reportReserved_zero (by rw [(State.granted_spec granted).1]; exact reserved)]
    exact congrArg _ answers
  all_goals exact congrArg _ answers

/-- A request of the port's own that is refused is answered with the code alone (R176, R177). -/
theorem exec_refused_locally {s : State} {p : Port} {k : RequestKind} {r : Request} {c : Instr} {code : ResultCode}
    (asked : s.localRequest p k = some r) (reserved : k.reservedNonzero r.payload = false)
    (listed : (k, c) ∈ [(.identify, .identify p), (.nop, .nop p), (.setPush, .setPush p)])
    (refused : k.perform p r (s.requestTaken p) = refuse k code (s.requestTaken p)) :
    exec c s = .next (s.answeredLocally p (.bare k code)) := by
  have answers : s.answer p k (k.perform p) = s.answeredLocally p (.bare k code) :=
    State.answer_answered asked refused
  simp only [List.mem_cons, Prod.mk.injEq, List.not_mem_nil, or_false] at listed
  rcases listed with ⟨rfl, rfl⟩ | ⟨rfl, rfl⟩ | ⟨rfl, rfl⟩
  · exact congrArg _ answers
  · exact congrArg _ answers
  · show Host.Outcome.next (s.answerSetPush p) = _
    unfold State.answerSetPush
    rw [asked]
    dsimp only
    rw [State.reportReserved_zero (by rw [(State.localRequest_spec asked).1]; exact reserved)]
    exact congrArg _ answers

/-! ### The first checks: the fence and IDLE -/

section
variable {s : State} {p : Port} {k : RequestKind} (r : Request)

/-- Every request but CLEAR_ERRORS is refused by the fence (R143). -/
theorem RequestKind.perform_fenced (other : k ≠ .clearErrors) (fenced : (s.port p).fenced = true) :
    k.perform p r s = refuse k .fenced s := by
  cases k with
  | clearErrors => exact absurd rfl other
  | setRules =>
    show performSetRules p r s = _
    simp [performSetRules, State.rulesRefusal, fenced]
  | _ => exact if_pos fenced

/-- In IDLE there is no race for a race request but OPEN_RACE and SNAPSHOT. -/
theorem RequestKind.perform_idle (free : (s.port p).fenced = false) (idle : s.race.phase = .idle)
    (race : k.portLocal = false) (opens : k ≠ .openRace) (reads : k ≠ .snapshot) :
    k.perform p r s = refuse k .noRace s := by
  have passes : ¬(s.port p).fenced = true := ne_true_of_eq_false free
  cases k with
  | openRace => exact absurd rfl opens
  | snapshot => exact absurd rfl reads
  | identify | nop | setPush | clearErrors => cases race
  | setRules =>
    show performSetRules p r s = _
    simp [performSetRules, State.rulesRefusal, free, idle]
  | leave =>
    refine (if_neg passes).trans ?_
    rw [idle]
  | _ => exact (if_neg passes).trans (if_pos idle)

/-! ### The checks of the course, the settings and the entries (R4, R12, R18, R19, R21, R24, R46) -/

theorem performOpenRace_refused (free : (s.port p).fenced = false) (started : s.race.phase ≠ .idle) :
    performOpenRace p r s = refuse .openRace .raceExists s :=
  (if_neg (ne_true_of_eq_false free)).trans (if_pos started)

theorem Phase.locked_of_started {x : Phase} (started : x ≠ .idle) (closed : x ≠ .forming) : x.locked = true :=
  Classical.byContradiction fun unlocked => closed (Phase.forming_of_unlocked started unlocked)

/-- A check of SET_RULES that fails decides its answer (R19). -/
theorem performSetRules_refused {code : ResultCode} (fails : s.rulesRefusal p r = some code) :
    performSetRules p r s = refuse .setRules code s := by
  unfold performSetRules
  rw [fails]

/-- A selected setting out of its range fails the check of the ranges (R19). -/
theorem rulesInRange_of_outside {payload : List Byte}
    (outside : ∃ i < 9, (rulesMask payload).testBit i = true ∧
      (rulesValue payload i < (settingRange i).1 ∨ (settingRange i).2 < rulesValue payload i)) :
    rulesInRange payload = false := by
  obtain ⟨i, small, selected, outside⟩ := outside
  refine List.all_eq_false.mpr ⟨i, List.mem_range.mpr small, ?_⟩
  simp only [selected, Bool.not_true, Bool.false_or, decide_eq_true_eq]
  omega

/-- Once entries are closed the settings and the course are locked (R12, R18). -/
theorem RequestKind.perform_locked (free : (s.port p).fenced = false) (started : s.race.phase ≠ .idle)
    (closed : s.race.phase ≠ .forming) (kind : k = .setRules ∨ k = .loadCourse) :
    k.perform p r s = refuse k .locked s := by
  have passes : ¬(s.port p).fenced = true := ne_true_of_eq_false free
  have locked := Phase.locked_of_started started closed
  rcases kind with rfl | rfl
  · exact performSetRules_refused r ((if_neg passes).trans ((if_neg started).trans (if_pos locked)))
  · exact (if_neg passes).trans ((if_neg started).trans (if_pos locked))

/-- In FORMING the settings, the course and the end of the entries are the opener's (R4, R19, R24). -/
theorem RequestKind.perform_notOpener (free : (s.port p).fenced = false) (forming : s.race.phase = .forming)
    (other : s.race.opener ≠ some p) (kind : k = .setRules ∨ k = .loadCourse ∨ k = .closeEntries) :
    k.perform p r s = refuse k .notOpener s := by
  have passes : ¬(s.port p).fenced = true := ne_true_of_eq_false free
  have started : s.race.phase ≠ .idle := by rw [forming]; decide
  have unlocked : ¬s.race.phase.locked = true := by rw [forming]; decide
  rcases kind with rfl | rfl | rfl
  · exact performSetRules_refused r
      ((if_neg passes).trans ((if_neg started).trans ((if_neg unlocked).trans (if_pos other))))
  · exact (if_neg passes).trans ((if_neg started).trans ((if_neg unlocked).trans (if_pos other)))
  · exact (if_neg passes).trans ((if_neg started).trans ((if_neg (not_not_intro forming)).trans (if_pos other)))

/-- The opener's requests of FORMING are refused by what they carry, or by a course that is missing. -/
theorem opener_refused (free : (s.port p).fenced = false) (forming : s.race.phase = .forming)
    (own : s.race.opener = some p) :
    (rulesInRange r.payload = false → performSetRules p r s = refuse .setRules .range s) ∧
    (courseOf r.payload = none → performLoadCourse p r s = refuse .loadCourse .range s) ∧
    (s.course = none → performCloseEntries p r s = refuse .closeEntries .notReady s) := by
  have passes : ¬(s.port p).fenced = true := ne_true_of_eq_false free
  have started : s.race.phase ≠ .idle := by rw [forming]; decide
  have unlocked : ¬s.race.phase.locked = true := by rw [forming]; decide
  refine ⟨fun outside => ?_, fun invalid => ?_, fun missing => ?_⟩
  · exact performSetRules_refused r ((if_neg passes).trans ((if_neg started).trans ((if_neg unlocked).trans
      ((if_neg (not_not_intro own)).trans (if_pos (by rw [outside]; rfl))))))
  · refine (if_neg passes).trans ((if_neg started).trans ((if_neg unlocked).trans
      ((if_neg (not_not_intro own)).trans ?_)))
    rw [invalid]
  · exact (if_neg passes).trans ((if_neg started).trans ((if_neg (not_not_intro forming)).trans
      ((if_neg (not_not_intro own)).trans (if_pos (by rw [missing]; rfl)))))

/-- Once entries are closed no car enters, and they are not closed again (R24, R46). -/
theorem RequestKind.perform_closed (free : (s.port p).fenced = false) (started : s.race.phase ≠ .idle)
    (closed : s.race.phase ≠ .forming) (kind : k = .enter ∨ k = .closeEntries) :
    k.perform p r s = refuse k .wrongPhase s := by
  rcases kind with rfl | rfl <;>
    exact (if_neg (ne_true_of_eq_false free)).trans ((if_neg started).trans (if_pos closed))

/-- The checks of ENTER in FORMING, in their order (R46). -/
theorem performEnter_refused (free : (s.port p).fenced = false) (forming : s.race.phase = .forming) :
    (s.car p ≠ none → performEnter p r s = refuse .enter .alreadyEntered s) ∧
    (s.car p = none → s.course = none → performEnter p r s = refuse .enter .notReady s) ∧
    (∀ course : Course, s.car p = none → s.course = some course → course.checkValue ≠ enterCheck r.payload →
      performEnter p r s = refuse .enter .courseMismatch s) := by
  have passes : ¬(s.port p).fenced = true := ne_true_of_eq_false free
  have started : s.race.phase ≠ .idle := by rw [forming]; decide
  refine ⟨fun here => ?_, fun out missing => ?_, fun course out loaded other => ?_⟩
  all_goals refine (if_neg passes).trans ((if_neg started).trans ((if_neg (not_not_intro forming)).trans ?_))
  · exact if_pos (Option.isSome_iff_ne_none.mpr here)
  · refine (if_neg (by simp [State.isRacePort, out])).trans ?_
    rw [missing]
  · refine (if_neg (by simp [State.isRacePort, out])).trans ?_
    rw [loaded]
    exact if_pos other

/-! ### The checks of a car (R48, R50, R51, R66, R88, R122) -/

/-- A port without a car has none to set up, ready, withdraw, report or vote for. -/
theorem RequestKind.perform_notEntered (free : (s.port p).fenced = false) (started : s.race.phase ≠ .idle)
    (out : s.car p = none) (kind : k ∈ [.carSetup, .ready, .leave, .report, .clearFlags, .abortVote]) :
    k.perform p r s = refuse k .notEntered s := by
  have passes : ¬(s.port p).fenced = true := ne_true_of_eq_false free
  have noRacePort : ¬s.isRacePort p = true := by simp [State.isRacePort, out]
  by_cases leaves : k = .leave
  · subst leaves
    refine (if_neg passes).trans ?_
    cases phase : s.race.phase with
    | idle => exact absurd phase started
    | forming | grid | countdown | results => exact if_neg noRacePort
    | green | finishing => rw [out]
  · simp only [List.mem_cons, List.not_mem_nil, or_false] at kind
    rcases kind with rfl | rfl | rfl | rfl | rfl | rfl
    case inr.inr.inl => exact absurd rfl leaves
    all_goals
      refine (if_neg passes).trans ((if_neg started).trans ?_)
      rw [out]

section
variable {c : Car} (free : (s.port p).fenced = false) (started : s.race.phase ≠ .idle) (car : s.car p = some c)
include free started car

/-- The checks of CAR_SETUP that are left with a car, in their order (R48). -/
theorem performCarSetup_refused :
    (c.standing = .ready → performCarSetup p r s = refuse .carSetup .locked s) ∧
    (c.standing ≠ .ready → s.race.phase ≠ .forming → s.race.phase ≠ .grid →
      performCarSetup p r s = refuse .carSetup .wrongPhase s) ∧
    (c.standing ≠ .ready → s.race.phase = .forming ∨ s.race.phase = .grid → setupInRange r.payload = false →
      performCarSetup p r s = refuse .carSetup .range s) := by
  refine ⟨fun ready => ?_, fun unready closed under => ?_, fun unready before outside => ?_⟩
  all_goals
    refine (if_neg (ne_true_of_eq_false free)).trans ((if_neg started).trans ?_)
    rw [car]
  · exact if_pos ready
  · exact (if_neg unready).trans (if_pos ⟨closed, under⟩)
  · refine (if_neg unready).trans ((if_neg ?_).trans (if_pos (by rw [outside]; rfl)))
    rintro ⟨closed, under⟩
    exact before.elim closed under

/-- The checks of READY that are left with a car, in their order (R50). -/
theorem performReady_refused :
    (s.race.phase ≠ .grid → performReady p r s = refuse .ready .wrongPhase s) ∧
    (s.race.phase = .grid → c.standing = .ready → performReady p r s = refuse .ready .alreadyEntered s) := by
  refine ⟨fun other => ?_, fun grid ready => ?_⟩
  all_goals
    refine (if_neg (ne_true_of_eq_false free)).trans ((if_neg started).trans ?_)
    rw [car]
  · exact if_pos other
  · exact (if_neg (not_not_intro grid)).trans (if_pos ready)

/-- Reports and the flags are for the phases from COUNTDOWN to FINISHING (R66, R88). -/
theorem RequestKind.perform_wrongPhase (kind : k = .report ∨ k = .clearFlags)
    (phase : s.race.phase ∈ [.forming, .grid, .results]) : k.perform p r s = refuse k .wrongPhase s := by
  have still : s.race.phase = .forming ∨ s.race.phase = .grid ∨ s.race.phase = .results := by simpa using phase
  rcases kind with rfl | rfl
  all_goals
    refine (if_neg (ne_true_of_eq_false free)).trans ((if_neg started).trans ?_)
    rw [car]
    exact if_pos still

/-- A RETIRED car reports no more (R66). -/
theorem performReport_refused (phase : s.race.phase ∈ [.countdown, .green, .finishing])
    (retired : c.standing.isRetired = true) : performReport p r s = refuse .report .outOfRace s := by
  refine (if_neg (ne_true_of_eq_false free)).trans ((if_neg started).trans ?_)
  rw [car]
  refine (if_neg ?_).trans (if_pos retired)
  simp only [List.mem_cons, List.not_mem_nil, or_false] at phase
  rcases phase with phase | phase | phase <;> rw [phase] <;> decide

/-- The checks of ABORT_VOTE that are left with a car, in their order (R122). -/
theorem performAbortVote_refused :
    (s.race.phase.running = false → performAbortVote p r s = refuse .abortVote .wrongPhase s) ∧
    (s.race.phase.running = true → c.standing.isRetired = true →
      performAbortVote p r s = refuse .abortVote .outOfRace s) := by
  refine ⟨fun waits => ?_, fun running retired => ?_⟩
  all_goals
    refine (if_neg (ne_true_of_eq_false free)).trans ((if_neg started).trans ?_)
    rw [car]
  · exact if_pos (by rw [waits]; rfl)
  · exact (if_neg (by simp [running])).trans (if_pos retired)

end

/-- A FINISHED or RETIRED car has left the race already (R51). -/
theorem performLeave_refused {c : Car} (free : (s.port p).fenced = false) (running : s.race.phase.running = true)
    (car : s.car p = some c) (out : (c.standing.isFinished || c.standing.isRetired) = true) :
    performLeave p r s = refuse .leave .outOfRace s := by
  refine (if_neg (ne_true_of_eq_false free)).trans ?_
  rcases (Phase.running_iff _).mp running with phase | phase <;> rw [phase, car] <;> exact if_pos out

end

/-! ### Every refusal -/

theorem Standing.isRetired_of_state {x : Standing} (retired : x.state = .retired) : x.isRetired = true := by
  cases x with
  | retired => rfl
  | _ => cases retired

theorem Standing.isOut_of_state {x : Standing} (out : x.state ∈ [.finished, .retired]) :
    (x.isFinished || x.isRetired) = true := by
  cases x with
  | finished | retired => rfl
  | _ => simp [Standing.state] at out

/-- Settles O12: the fence, IDLE and then the checks of each request, each of which answers by itself. -/
theorem refusalsByFenceAndPhase : Obligations.RefusalsByFenceAndPhase := by
  refine ⟨fun s p k r c granted reserved fenced listed => ?_, fun s p k r c asked reserved fenced listed => ?_,
    fun s p k r c granted reserved free listed => ?_⟩
  · refine exec_refused granted reserved listed
      (RequestKind.perform_fenced r ?_ ((s.requestTaken_fenced p p).trans fenced))
    rintro rfl
    obtain ⟨-, race, -⟩ := State.granted_spec granted
    cases race
  · refine exec_refused_locally asked reserved listed
      (RequestKind.perform_fenced r ?_ ((s.requestTaken_fenced p p).trans fenced))
    rintro rfl
    simp at listed
  · obtain ⟨-, race, -⟩ := State.granted_spec granted
    have unfenced := (s.requestTaken_fenced p p).trans free
    have answers {code : ResultCode}
        (refused : k.perform p r (s.requestTaken p) = refuse k code (s.requestTaken p)) :
        exec c s = .next (s.answered p (.bare k code)) := exec_refused granted reserved listed refused
    refine ⟨fun idle opens reads => answers
        (RequestKind.perform_idle r unfenced idle race opens reads),
      fun started kind => ?_,
      fun started closed kind => answers (RequestKind.perform_locked r unfenced started closed kind),
      fun forming other kind => answers (RequestKind.perform_notOpener r unfenced forming other kind),
      fun forming own => ?_,
      fun started closed kind => answers (RequestKind.perform_closed r unfenced started closed kind),
      fun forming kind => ?_,
      fun started out kind => answers (RequestKind.perform_notEntered r unfenced started out kind),
      fun car started here => ?_⟩
    · subst kind
      exact answers (performOpenRace_refused r unfenced started)
    · obtain ⟨rules, course, entries⟩ := opener_refused (s := s.requestTaken p) r unfenced forming own
      refine ⟨?_, ?_, ?_⟩ <;> rintro rfl
      · exact fun outside => answers (rules (rulesInRange_of_outside outside))
      · exact fun invalid => answers (course invalid)
      · exact fun missing => answers (entries missing)
    · subst kind
      obtain ⟨entered, missing, mismatch⟩ := performEnter_refused (s := s.requestTaken p) r unfenced forming
      exact ⟨fun there => answers (entered there), fun out none => answers (missing out none),
        fun course out loaded other => answers (mismatch course out loaded other)⟩
    · obtain ⟨setupLocked, setupPhase, setupRange⟩ :=
        performCarSetup_refused (s := s.requestTaken p) r unfenced started here
      obtain ⟨readyPhase, readyAgain⟩ := performReady_refused (s := s.requestTaken p) r unfenced started here
      obtain ⟨votePhase, voteOut⟩ := performAbortVote_refused (s := s.requestTaken p) r unfenced started here
      refine ⟨?_, ?_, ?_, ?_, ?_, ?_, fun kind phase => answers
        (RequestKind.perform_wrongPhase r unfenced started here kind phase), ?_, ?_, ?_⟩ <;> rintro rfl
      · exact fun ready => answers (setupLocked ready)
      · exact fun unready closed under => answers (setupPhase unready closed under)
      · exact fun unready before outside => answers (setupRange unready before outside)
      · exact fun other => answers (readyPhase other)
      · exact fun grid ready => answers (readyAgain grid ready)
      · exact fun running out => answers (performLeave_refused r unfenced running here
          (Standing.isOut_of_state out))
      · exact fun phase retired => answers (performReport_refused r unfenced started here phase
          (Standing.isRetired_of_state retired))
      · exact fun waits => answers (votePhase waits)
      · exact fun running retired => answers (voteOut running (Standing.isRetired_of_state retired))

end Sys2Proof.Machine
end

section
/-! PROOF. The supervision of a port (07): the expiries of its silence timer, CLEAR_ERRORS, bad checks and major
errors (R132 to R144, R171 to R173, R179). -/
namespace Sys2Proof.Machine

/-! ### The silence timer (R132, R134) -/

/-- The COASTING car of a LOST port retires, with the reason of its fence where it has one (R139). -/
theorem State.lostEffects_coasting {s : State} {p : Port} (running : s.race.phase.running = true)
    (coasting : s.carState p = .coasting) :
    s.lostEffects p = s.retire p (if (s.port p).fenced then .fenced else .silent) := by
  unfold State.lostEffects
  rcases (Phase.running_iff _).mp running with phase | phase <;> rw [phase] <;> exact if_pos coasting

/-- Settles O52: the port becomes LOST with the effects of its phase, and the retirement of its COASTING car ends
nothing while another car runs and the votes fall short. -/
theorem longSilenceRetiresACoastingCar : Obligations.LongSilenceRetiresACoastingCar := by
  refine ⟨fun s p out => ⟨s.becomeLost p, congrArg _ (if_pos out), State.lostEffects_spec p _⟩,
    fun s p q c d out running car coasting other rival racing short => ?_⟩
  let v := s.modifyPort p fun c => { c with presence := .lost, silence := .stopped }
  let reason : Reason := if (s.port p).fenced then .fenced else .silent
  have lost : v.port p = { s.port p with presence := .lost, silence := .stopped } := s.modifyPort_port_self p _
  have retires : s.becomeLost p = v.retire p reason := by
    have silent := State.lostEffects_coasting (s := v) running
      ((State.carState_of (s := v) car).trans (congrArg _ coasting))
    rw [lost] at silent
    exact silent
  have only : (v.retiredState p reason).OnlyNotices (s.becomeLost p) := by
    rw [retires]
    exact State.retire_goes_on reason car (by rw [coasting]; rfl) other rival racing short
  have rest := only.rest
  have cars : (s.becomeLost p).cars = (v.retiredState p reason).cars := by rw [rest]
  refine ⟨s.becomeLost p, congrArg _ (if_pos out), ?_, ?_, fun x away => ?_, ?_, fun x away => ?_⟩
  · generalize s.becomeLost p = t at rest
    rw [rest]
    rfl
  · show (s.becomeLost p).cars.get p = _
    rw [cars]
    exact (v.modifyCar_car_self p _).trans (congrArg (Option.map _) car)
  · show (s.becomeLost p).cars.get x = _
    rw [cars]
    exact v.modifyCar_car_ne _ away
  · rw [← lost]
    exact only.ports p
  · have same : v.port x = s.port x := s.modifyPort_port_ne _ away
    rw [← same]
    exact only.ports x

/-! ### Bad checks (R171) -/

/-- Settles O46: the bad check is counted and taken as a major error, and the eighth is a loss of the link. -/
theorem badChecksTakeTheLinkDown : Obligations.BadChecksTakeTheLinkDown := by
  intro s p
  have runs : exec (.badCheckFrame p) s = .next (s.badCheckFrame p) := rfl
  unfold State.badCheckFrame at runs
  constructor
  · intro down
    rw [runs, down]
  · intro up
    let counted := s.modifyPort p fun c => { c with badChecks := c.badChecks + 1 }
    rw [up] at runs
    refine ⟨counted.majorError p .badCheck none, counted.majorError_spec p .badCheck none, fun few => ?_,
      fun many => ⟨_, runs.trans (congrArg _ (if_pos many)), State.linkDown_spec p _⟩⟩
    exact runs.trans (congrArg _ (if_neg (Nat.not_le.mpr few)))

/-! ### Major errors (R140 to R143) -/

theorem State.racing_car {s : State} {p : Port} (racing : s.carState p = .racing) :
    ∃ c : Car, s.car p = some c ∧ c.standing = .racing := by
  obtain ⟨x, stands, is⟩ := State.standingOf_of_carState racing (by decide)
  obtain ⟨c, car, rfl⟩ := State.standingOf_eq_some_iff.mp stands
  refine ⟨c, car, ?_⟩
  cases standing : c.standing with
  | racing => rfl
  | _ =>
    rw [standing] at is
    cases is

/-- The third major error fences its port, which goes LATE where it was PRESENT (R142, R143). -/
theorem State.majorError_fences {s : State} {p : Port} (kind : ErrorKind) (requestKind : Option Byte)
    {record : ErrorRecord} (held : (s.port p).errorRecord = some record) (multiple : record.multiple = true)
    (free : (s.port p).fenced = false) (present : (s.port p).presence = .present) :
    s.majorError p kind requestKind = (s.modifyPort p fun c =>
      { c with fenced := true, presence := .late, silence := .second 2750 }).lateEffects p .fenced := by
  rw [State.majorError_third kind requestKind held multiple free]
  unfold State.fence State.goLate
  rw [present]
  dsimp only
  rw [State.modifyPort_modifyPort]
  rfl

/-- Settles O47: a LEN above 240 on an UP link is a major error, and the third one fences the port, whose RACING
car then coasts. -/
theorem majorErrorsEndInTheFence : Obligations.MajorErrorsEndInTheFence := by
  intro s p
  refine ⟨fun up => ?_, fun down => ?_, rfl⟩
  · have runs : exec (.badLengthFrame p) s = .next (s.majorError p .badLength none) := by
      show Host.Outcome.next (s.badLengthFrame p) = _
      unfold State.badLengthFrame
      rw [up]
    refine ⟨⟨_, s.majorError_spec p .badLength none, runs⟩, fun record held multiple free present => ?_⟩
    let u := s.modifyPort p fun c => { c with fenced := true, presence := .late, silence := .second 2750 }
    have own := u.lateEffects_ports p p .fenced
    rw [s.modifyPort_port_self] at own
    rw [State.majorError_fences .badLength none held multiple free present] at runs
    refine ⟨u.lateEffects p .fenced, runs, by rw [own], by rw [own], by rw [own], by rw [own]; exact held,
      fun q other => ?_, fun running racing => ?_⟩
    · rw [← s.modifyPort_port_ne _ other]
      exact u.lateEffects_ports p q .fenced
    · obtain ⟨c, car, standing⟩ := State.racing_car racing
      obtain ⟨rest, coasts, others, -⟩ := (u.lateEffects_spec p .fenced).coasts running c car standing
      exact ⟨rest, State.carState_of coasts, others⟩
  · show Host.Outcome.next (s.badLengthFrame p) = _
    unfold State.badLengthFrame
    rw [down]

/-! ### CLEAR_ERRORS (R144) -/

/-- A port that has nothing to clear and is PRESENT is left as it is (R144, log 7). -/
theorem State.clearErrors_nothing {s : State} {p : Port} (empty : (s.port p).errorRecord = none)
    (free : (s.port p).fenced = false) (present : (s.port p).presence = .present) : s.clearErrors p = s := by
  unfold State.clearErrors
  exact if_pos ⟨by rw [empty]; rfl, free, present⟩

/-- A port as CLEAR_ERRORS leaves it where there is something to clear (R144). -/
def PortState.restored (c : PortState) : PortState :=
  { c with errorRecord := none, fenced := false, presence := .present, silence := .first 250 }

/-- A port that has something to clear, or is not PRESENT, is restored, and returns where it was LATE (R144). -/
theorem State.clearErrors_something {s : State} {p : Port} (something : (s.port p).errorRecord ≠ none ∨
    (s.port p).fenced = true ∨ (s.port p).presence ≠ .present) :
    s.clearErrors p = if (s.port p).presence = .late then (s.modifyPort p PortState.restored).returnEffects p
      else s.modifyPort p PortState.restored := by
  have clears : ¬((s.port p).errorRecord.isNone = true ∧ (s.port p).fenced = false ∧
      (s.port p).presence = .present) := by
    rintro ⟨empty, free, present⟩
    rcases something with held | fenced | away
    · exact held (Option.isNone_iff_eq_none.mp empty)
    · exact absurd (free.symm.trans fenced) Bool.false_ne_true
    · exact away present
  unfold State.clearErrors
  dsimp only
  rw [if_neg clears]
  unfold State.becomePresent
  rw [State.modifyPort_modifyPort, State.modifyPort_port_self]
  rfl

/-- Settles O41: the port is restored between the two ends of the answer, and one that was LATE returns. -/
theorem clearErrorsLiftsTheFence : Obligations.ClearErrorsLiftsTheFence := by
  intro s p r asked
  let v := s.requestTaken p
  let response : Response := .clearErrors (s.port p).errorRecord (s.port p).fenced
  have own : v.port p = (s.port p).dropRequest := s.modifyPort_port_self p _
  have runs : exec (.clearErrors p) s =
      .next ((v.clearErrors p).modifyPort p fun c => c.respond response) := by
    have performed : performClearErrors p r v = (v.clearErrors p, response) := by
      unfold performClearErrors
      rw [own]
      rfl
    refine (congrArg Host.Outcome.next (State.answer_some asked)).trans ?_
    show Host.Outcome.next ((performClearErrors p r v).1.modifyPort p fun c =>
      c.respond (performClearErrors p r v).2) = _
    rw [performed]
  have late_returns (late : (s.port p).presence = .late) :
      v.clearErrors p = (v.modifyPort p PortState.restored).returnEffects p := by
    rw [State.clearErrors_something (by rw [own]; exact .inr (.inr (by simp [late])))]
    exact if_pos (by rw [own]; exact late)
  refine ⟨fun something steady => ?_, fun empty free present => ?_, fun late => ?_,
    fun c running car coasting late => ?_⟩
  · have restores : v.clearErrors p = v.modifyPort p PortState.restored := by
      rw [State.clearErrors_something (by rw [own]; exact something)]
      rcases steady with other | ⟨still, races⟩
      · exact if_neg (by rw [own]; exact other)
      · rw [State.returnEffects_nothing (s := v.modifyPort p PortState.restored) still races, ite_self]
    rw [runs, restores]
    unfold State.answeredLocally v State.requestTaken
    rw [State.modifyPort_modifyPort, State.modifyPort_modifyPort, State.modifyPort_modifyPort]
    rfl
  · have stays : v.clearErrors p = v := State.clearErrors_nothing (by rw [own]; exact empty)
      (by rw [own]; exact free) (by rw [own]; exact present)
    rw [runs, stays, show response = .clearErrors none false by unfold response; rw [empty, free]]
    unfold State.answeredLocally v State.requestTaken
    rw [State.modifyPort_modifyPort]
  · exact ⟨v.clearErrors p, by rw [late_returns late]; exact State.returnEffects_spec p _, runs⟩
  · have returned := (State.returnEffects_spec p (v.modifyPort p PortState.restored)).races running c car coasting
    rw [← late_returns late] at returned
    obtain ⟨rest, races, others, ports⟩ := returned
    refine ⟨_, runs, ?_, races, others, ?_⟩
    · generalize v.clearErrors p = w at rest
      rw [rest]
      rfl
    · have home := ports p
      rw [State.modifyPort_port_self, PortState.offerAll_same, PortState.restored] at home
      rw [State.modifyPort_port_self]
      refine ⟨by rw [home]; rfl, by rw [home]; rfl, by rw [home]; rfl, by rw [home]; rfl, fun q other => ?_⟩
      have same : (v.modifyPort p PortState.restored).port q = s.port q :=
        (v.modifyPort_port_ne _ other).trans (s.modifyPort_port_ne _ other)
      rw [State.modifyPort_port_ne _ _ other, ports, PortState.offerIf_eq_offerAll, same]
      rfl

end Sys2Proof.Machine
end

section
/-! PROOF. The frames of a port (R171, R174 to R176, R131, R138): a request that arrives acts on the link and the
presence, and is queued, or answered where nothing waits; so a NOP brings a COASTING car back. -/
namespace Sys2Proof.Machine

/-! ### The request queue (R175) -/

/-- A frame that is queued or answered BUSY touches the two queues alone. -/
theorem PortState.accept_same (kind : Byte) (payload : List Byte) (arrival : Nat) (c : PortState) :
    c.accept kind payload arrival = { c with
      requestQueue := (c.accept kind payload arrival).requestQueue
      responseQueue := (c.accept kind payload arrival).responseQueue } := by
  unfold PortState.accept
  split
  · rfl
  · split <;> rfl

theorem PortState.accept_room {c : PortState} (kind : Byte) (payload : List Byte) (arrival : Nat)
    (room : c.requestQueue.length < 4) : c.accept kind payload arrival =
      { c with requestQueue := c.requestQueue ++ [queuedFrame kind payload arrival] } := if_pos room

/-- A frame that finds four entries waiting is answered BUSY, where the answer fits. -/
theorem PortState.accept_full {c : PortState} (kind : Byte) (payload : List Byte) (arrival : Nat)
    (full : 4 ≤ c.requestQueue.length) : c.accept kind payload arrival = { c with
      responseQueue := if c.responseQueue.length < 6 then c.responseQueue ++ [busyAnswer kind]
        else c.responseQueue } := by
  refine (if_neg (Nat.not_lt.mpr full)).trans ?_
  by_cases fits : c.responseQueue.length < 6
  · exact (if_pos fits).trans (by rw [if_pos fits]; rfl)
  · exact (if_neg fits).trans (by rw [if_neg fits])

theorem queuedFrame_request {kind : Byte} {k : RequestKind} (known : RequestKind.ofCode kind = some k)
    (payload : List Byte) (arrival : Nat) :
    queuedFrame kind payload arrival = .request ⟨k, payload, arrival⟩ := by
  unfold queuedFrame
  rw [known]

theorem busyAnswer_request {kind : Byte} {k : RequestKind} (known : RequestKind.ofCode kind = some k) :
    busyAnswer kind = .bare k .busy := by
  unfold busyAnswer
  rw [known]

/-! ### The arrival of a frame (R171, R131, R138) -/

/-- A frame on a LATE port that is not fenced has the effects of a return. -/
theorem State.frameArrives_returns {s : State} {p : Port} (free : (s.port p).fenced = false)
    (late : (s.port p).presence = .late) : s.frameArrives p = (s.modifyPort p fun c =>
      { c with link := .up, badChecks := 0, presence := .present, silence := .first 250 }).returnEffects p := by
  unfold State.frameArrives State.validFramePresence State.becomePresent
  rw [State.modifyPort_port_self]
  dsimp only
  rw [free, late, State.modifyPort_modifyPort]
  rfl

/-- The arrival of a frame offers the other ports notices alone. -/
theorem State.frameArrives_others (s : State) {p q : Port} (other : q ≠ p) :
    (s.port q).SameButNotices ((s.frameArrives p).port q) := by
  have arrived := s.frameArrives_spec p
  cases fence : (s.port p).fenced with
  | true =>
    rw [arrived.fenced fence, State.modifyPort_port_ne _ _ other]
    exact .refl _
  | false =>
    by_cases late : (s.port p).presence = .late
    · rw [State.frameArrives_returns fence late, ← s.modifyPort_port_ne _ other]
      exact State.returnEffects_ports _ p q
    · rw [arrived.heard fence late, State.modifyPort_port_ne _ _ other]
      exact .refl _

/-- The port of the frame is the same but for its link, its presence with its timer, and its notices. -/
theorem State.frameArrives_port (s : State) (p : Port) : PortState.SameButNotices
    (if (s.port p).fenced then { s.port p with link := .up, badChecks := 0 }
      else { s.port p with link := .up, badChecks := 0, presence := .present, silence := .first 250 })
    ((s.frameArrives p).port p) := by
  have arrived := s.frameArrives_spec p
  cases fence : (s.port p).fenced with
  | true =>
    rw [arrived.fenced fence, State.modifyPort_port_self]
    exact .refl _
  | false =>
    by_cases late : (s.port p).presence = .late
    · have own := State.returnEffects_ports (s.modifyPort p fun c =>
        { c with link := .up, badChecks := 0, presence := .present, silence := .first 250 }) p p
      rw [State.modifyPort_port_self] at own
      rw [State.frameArrives_returns fence late]
      exact own
    · rw [arrived.heard fence late, State.modifyPort_port_self]
      exact .refl _

/-! ### A request that arrives (R174, R176) -/

/-- The state once a request frame has arrived and stands in the queue, or is answered BUSY (R174, R175). -/
def State.requestArrived (p : Port) (kind : Byte) (payload : List Byte) (s : State) : State :=
  (s.frameArrives p).modifyPort p (PortState.accept kind payload s.tickCount)

theorem State.requestArrived_port (s : State) (p : Port) (kind : Byte) (payload : List Byte) :
    (s.requestArrived p kind payload).port p =
      ((s.frameArrives p).port p).accept kind payload s.tickCount := State.modifyPort_port_self _ p _

/-- A request of an allowed length is queued on its arrival, and then what stands at the head of a queue that was
empty is answered (R174, R176). -/
theorem exec_validFrame_request {s : State} {p : Port} {kind : Byte} {k : RequestKind} {payload : List Byte}
    (small : payload.length ≤ 240) (known : RequestKind.ofCode kind = some k)
    (allowed : k.lengthAllowed payload = true) :
    exec (.validFrame p kind payload) s = .next (if (s.port p).requestQueue = []
      then (s.requestArrived p kind payload).answerHead p else s.requestArrived p kind payload) := by
  obtain ⟨⟨ticks, -⟩, _, _, own⟩ := State.frameArrives_own p s
  have queue : ((s.frameArrives p).port p).requestQueue = (s.port p).requestQueue := by rw [own]
  have sorted : (s.frameArrives p).sortFrame p kind payload = s.requestArrived p kind payload := by
    unfold State.sortFrame State.requestArrived
    rw [known, ticks]
    exact if_pos allowed
  refine (congrArg Host.Outcome.next (if_pos small)).trans ?_
  unfold State.validFrame
  dsimp only
  rw [sorted, queue]

/-- With no room for a response the head of the queue is held back (R176). -/
theorem State.answerHead_full {s : State} {p : Port} (full : 6 ≤ (s.port p).responseQueue.length) :
    s.answerHead p = s := by
  have held : (s.port p).head = none := if_neg (Nat.not_lt.mpr full)
  unfold State.answerHead
  rw [held]

/-- A request of the port's own at the head is answered as its own command answers it (R176). -/
theorem State.answerHead_local {s : State} {p : Port} {r : Request} {c : Instr}
    (head : (s.port p).head = some (.request r)) (listed : (r.kind, c) ∈ localRequests p) :
    Host.Outcome.next (s.answerHead p) = exec c s := by
  unfold State.answerHead
  rw [head]
  dsimp only
  simp only [localRequests, List.mem_cons, Prod.mk.injEq, List.not_mem_nil, or_false] at listed
  rcases listed with ⟨kind, rfl⟩ | ⟨kind, rfl⟩ | ⟨kind, rfl⟩ | ⟨kind, rfl⟩ <;> rw [kind] <;> rfl

/-- Settles O44: the frame acts on the link and the presence and is queued; what then stands alone is answered. -/
theorem validFrameQueuesTheRequest : Obligations.ValidFrameQueuesTheRequest := by
  intro s p kind k payload small known allowed
  let u := s.frameArrives p
  let t := s.requestArrived p kind payload
  have arrived := s.frameArrives_spec p
  have runs : exec (.validFrame p kind payload) s =
    .next (if (s.port p).requestQueue = [] then t.answerHead p else t) :=
    exec_validFrame_request small known allowed
  have own := s.frameArrives_port p
  obtain ⟨-, _, _, kept⟩ := State.frameArrives_own p s
  have requests : (u.port p).requestQueue = (s.port p).requestQueue := by rw [kept]
  have responses : (u.port p).responseQueue = (s.port p).responseQueue := by rw [kept]
  have port : t.port p = (u.port p).accept kind payload s.tickCount := s.requestArrived_port p kind payload
  have same := PortState.accept_same kind payload s.tickCount (u.port p)
  have others : ∀ q : Port, q ≠ p → t.port q = u.port q := fun q other => u.modifyPort_port_ne _ other
  have queued (room : (s.port p).requestQueue.length < 4) :
      (t.port p).requestQueue = (s.port p).requestQueue ++ [.request ⟨k, payload, s.tickCount⟩] ∧
      (t.port p).responseQueue = (s.port p).responseQueue := by
    rw [port, PortState.accept_room _ _ _ (by rw [requests]; exact room), queuedFrame_request known]
    exact ⟨congrArg (· ++ _) requests, responses⟩
  refine ⟨t, fun waits => runs.trans (congrArg _ ?_), fun empty fits c listed => ?_, ?_, ?_, fun free => ?_,
    fun fenced => ?_, queued, fun full => ?_, fun q other => ?_, ?_, ?_, fun away => ?_, fun free late => ?_⟩
  · by_cases empty : (s.port p).requestQueue = []
    · rw [if_pos empty]
      obtain ⟨alone, answers⟩ := queued (by rw [empty]; decide)
      rw [empty] at alone
      rcases waits with some | granted | full
      · exact absurd empty some
      · exact State.answerHead_waits alone granted
      · exact State.answerHead_full (by rw [answers]; exact full)
    · exact if_neg empty
  · obtain ⟨alone, answers⟩ := queued (by rw [empty]; decide)
    have head : (t.port p).head = some (.request ⟨k, payload, s.tickCount⟩) := by
      unfold PortState.head
      rw [answers, alone, empty]
      exact if_pos fits
    rw [runs, if_pos empty]
    exact State.answerHead_local head listed
  · rw [port, same, kept]
  · rw [port, same, kept]
  · rw [if_neg (by simp [free])] at own
    rw [port, same, own]
    exact ⟨rfl, rfl⟩
  · rw [if_pos fenced] at own
    rw [port, same, own]
    exact ⟨rfl, rfl⟩
  · rw [port, PortState.accept_full _ _ _ (by rw [requests]; exact full), busyAnswer_request known]
    dsimp only
    rw [requests, responses]
    exact ⟨rfl, rfl⟩
  · rw [others q other]
    exact s.frameArrives_others other
  · rw [port, same, kept]
  · rw [port, same, kept]
  · have still : ∃ f : PortState → PortState, u = s.modifyPort p f := by
      cases fence : (s.port p).fenced with
      | true => exact ⟨_, arrived.fenced fence⟩
      | false => exact ⟨_, arrived.heard fence (away.resolve_left (by simp [fence]))⟩
    obtain ⟨f, still⟩ := still
    refine ⟨?_, fun q other => ?_⟩
    · show u.modifyPort p _ = { s with ports := (u.modifyPort p _).ports }
      rw [still]
      rfl
    · rw [others q other, still]
      exact s.modifyPort_port_ne f other
  · refine ⟨u, arrived.returns free late, State.ext_ports rfl fun q => ?_⟩
    by_cases e : q = p
    · rw [e, State.modifyPort_port_self]
      exact port.trans (same.trans (by rw [port]))
    · rw [others q e, u.modifyPort_port_ne _ e]

/-! ### Silence, and the NOP that ends it (R132, R137, R138) -/

/-- The answer to a NOP changes its own port alone, and leaves its presence (R181). -/
theorem State.answerNop_own (s : State) (p : Port) :
    s.answerNop p = { s with ports := (s.answerNop p).ports } ∧
    ((s.answerNop p).port p).presence = (s.port p).presence := by
  unfold State.answerNop
  cases asked : s.localRequest p .nop with
  | none =>
    rw [State.answer_none asked]
    exact ⟨rfl, rfl⟩
  | some r =>
    rw [State.answer_some asked, performNop_state, State.modifyPort_modifyPort]
    exact ⟨rfl, by rw [State.modifyPort_port_self]; rfl⟩

/-- Settles O51: the port goes LATE with the effects of its phase; the NOP has the effects of its return. -/
theorem silenceCoastsARacingCar : Obligations.SilenceCoastsARacingCar := by
  refine ⟨fun s p out => ⟨s.goLate p .silent, congrArg _ (if_pos out), State.lateEffects_spec p .silent _⟩,
    fun s p c out running car racing => ?_⟩
  let v := s.modifyPort p fun c => { c with presence := .late, silence := .second 2750 }
  let t := v.lateEffects p .silent
  obtain ⟨rest, coasting, others, ports⟩ := (v.lateEffects_spec p .silent).coasts running c car racing
  refine ⟨t, congrArg _ (if_pos out), rest, coasting, others, fun q => ?_, fun free => ?_⟩
  · rw [ports, PortState.offerIf_eq_offerAll, s.modifyPort_port]
    split
    · next own => rw [own]; rfl
    · rfl
  · have own : t.port p = (v.port p).offerAll _ := ports p
    rw [s.modifyPort_port_self] at own
    have late : (t.port p).presence = .late := by rw [own, PortState.offerAll_presence]
    have unfenced : (t.port p).fenced = false := by rw [own, PortState.offerAll_fenced]; exact free
    have phase : t.race.phase.running = true := (congrArg (fun x : State => x.race.phase.running) rest).trans running
    obtain ⟨w, waits, answered, -, -, heard, -, -, -, -, -, -, -, returns⟩ :=
      validFrameQueuesTheRequest t p RequestKind.nop.code .nop [] (by decide) rfl rfl
    obtain ⟨u, ends, same, presence⟩ : ∃ u : State, exec (.validFrame p RequestKind.nop.code []) t = .next u ∧
        u = { w with ports := u.ports } ∧ (u.port p).presence = (w.port p).presence := by
      by_cases alone : (t.port p).requestQueue = [] ∧ (t.port p).responseQueue.length < 6
      · obtain ⟨none, room⟩ := alone
        exact ⟨w.answerNop p, answered none room (.nop p) (by simp [localRequests]), w.answerNop_own p⟩
      · refine ⟨w, waits ?_, rfl, rfl⟩
        rcases not_and_or.mp alone with some | full
        · exact .inl some
        · exact .inr (.inr (Nat.not_lt.mp full))
    obtain ⟨x, back, placed⟩ := returns unfenced late
    obtain ⟨left, races, kept, -⟩ := back.races phase _ coasting rfl
    have cars : x.cars = s.cars := Bank.ext_get fun q => by
      by_cases e : q = p
      · rw [e]
        refine races.trans (Eq.trans ?_ car.symm)
        rw [← racing]
      · exact (kept q e).trans (others q e)
    have queued : w = { x with ports := w.ports } := by rw [placed]; rfl
    refine ⟨u, ends, ?_, presence.trans (heard unfenced).1⟩
    calc u = { w with ports := u.ports } := same
      _ = { x with ports := u.ports } := congrArg (fun y : State => { y with ports := u.ports }) queued
      _ = { t with cars := x.cars, ports := u.ports } :=
        congrArg (fun y : State => { y with ports := u.ports }) left
      _ = { t with cars := s.cars, ports := u.ports } := by rw [cars]
      _ = { s with ports := u.ports } :=
        congrArg (fun y : State => { y with cars := s.cars, ports := u.ports }) rest

end Sys2Proof.Machine
end

section
/-! PROOF. Snapshots (08 section 8.2): the age of a pose, the capture of the race and SNAPSHOT; and SET_PUSH, which
says when a port is pushed one (R150 to R153, R155). -/
namespace Sys2Proof.Machine

/-! ### The pose of an entry (R150) -/

@[simp] theorem State.poseAge_none (s : State) : s.poseAge none = 65535 := rfl

@[simp] theorem State.poseAge_some (s : State) (q : Pose) :
    s.poseAge (some q) = min (s.tickCount - q.arrival) 65534 := rfl

@[simp] theorem shownPose_none : shownPose none = [0, 0, 0, 0, 0, 0, 0, 0, 0, 0, 0, 0] := rfl

@[simp] theorem shownPose_some (q : Pose) : shownPose (some q) = q.bytes := rfl

/-- Settles O33: the age is a minimum, and its two cases are the two sides of the limit. -/
theorem poseAgeInSnapshots : Obligations.PoseAgeInSnapshots := by
  intro s c slot position
  refine ⟨fun q here => ?_, fun absent => ?_⟩
  · simp only [State.snapshotCar, here, State.poseAge_some, shownPose_some, true_and]
    exact ⟨fun young => Nat.min_eq_left young, fun old => Nat.min_eq_right old.le⟩
  · simp [State.snapshotCar, absent]

/-! ### The capture (R151 to R153) -/

theorem Standing.isFinished_iff_state (x : Standing) : x.isFinished = true ↔ x.state = .finished := by
  cases x <;> simp [Standing.isFinished, Standing.state]

/-- The entry at a place of a capture is that of the car at that place of the running order (R153). -/
theorem State.capture_getElem? {s : State} (cars : ∀ q ∈ s.runningOrder, s.isRacePort q = true) (i : Nat) :
    s.capture.cars[i]?.map some =
      s.runningOrder[i]?.map fun q => (s.car q).map fun c => s.snapshotCar c q (i + 1) := by
  have entries : s.capture.cars.map some =
      s.runningOrder.zipIdx.map fun e => (s.car e.1).map fun c => s.snapshotCar c e.1 (e.2 + 1) := by
    refine List.map_filterMap_some_eq_filter_map_isSome.trans (List.filter_eq_self.mpr ?_)
    refine List.forall_mem_map.mpr fun e member => ?_
    rw [Option.isSome_map]
    exact cars e.1 (List.fst_mem_of_mem_zipIdx member)
  rw [← List.getElem?_map, entries, List.getElem?_map, List.getElem?_zipIdx, Option.map_map, Nat.zero_add]
  rfl

/-- A capture holds an entry for each car of the running order, in that order (R153). -/
theorem State.capture_slots {s : State} (cars : ∀ q ∈ s.runningOrder, s.isRacePort q = true) :
    s.capture.cars.map SnapshotCar.slot = s.runningOrder := by
  refine List.ext_getElem? fun i => ?_
  have entry := s.capture_getElem? cars i
  rw [List.getElem?_map]
  cases place : s.runningOrder[i]? with
  | none =>
    rw [place, Option.map_none, Option.map_eq_none_iff] at entry
    rw [entry, Option.map_none]
  | some q =>
    obtain ⟨c, car⟩ := Option.isSome_iff_exists.mp (cars q (List.mem_of_getElem? place))
    rw [place, Option.map_some, car, Option.map_some] at entry
    obtain ⟨e, found, same⟩ := Option.map_eq_some_iff.mp entry
    obtain rfl := Option.some.inj same
    rw [found]
    rfl

/-- An entry of a capture is that of the car in its slot, at its place counted from 1 (R153). -/
theorem State.capture_entry {s : State} (cars : ∀ q ∈ s.runningOrder, s.isRacePort q = true) {i : Nat}
    {e : SnapshotCar} (found : s.capture.cars[i]? = some e) :
    ∃ c : Car, s.car e.slot = some c ∧ e = s.snapshotCar c e.slot (i + 1) := by
  have entry := s.capture_getElem? cars i
  rw [found] at entry
  obtain ⟨q, -, same⟩ := Option.map_eq_some_iff.mp entry.symm
  obtain ⟨c, car, rfl⟩ := Option.map_eq_some_iff.mp same
  exact ⟨c, car, rfl⟩

/-! ### SNAPSHOT (R151) -/

/-- A port that is not fenced is not refused by the fence (R143). -/
theorem State.requestTaken_passes {p : Port} (s : State) (free : (s.port p).fenced = false) :
    ¬((s.requestTaken p).port p).fenced = true := by
  rw [s.requestTaken_fenced, free]
  decide

/-- Settles O32: the grant only answers, with the capture; its time and each entry are read off case by case. -/
theorem snapshotCapturesTheRace : Obligations.SnapshotCapturesTheRace := by
  intro s p r granted free sound
  have cars : ∀ q ∈ s.runningOrder, s.isRacePort q = true := fun q => (sound.complete q).mp
  have runs : exec (.snapshot p) s = .next (s.answered p (.snapshot s.capture)) :=
    congrArg _ (State.grant_answered granted (if_neg (s.requestTaken_passes free)))
  refine ⟨s.capture, runs, rfl, rfl, rfl, rfl, rfl, ?_, s.capture_slots cars, fun i e found => ?_⟩
  · show s.shownTime = _
    unfold State.shownTime
    cases s.race.phase with
    | countdown => cases s.race.holdSlot <;> rfl
    | idle | forming | grid | green | finishing | results => rfl
  · obtain ⟨c, car, entry⟩ := s.capture_entry cars found
    have lap : s.currentLap c =
        if c.standing.state = .finished then s.race.settings.laps else c.floorGate.lap :=
      if_congr c.standing.isFinished_iff_state rfl rfl
    refine ⟨c, car, ?_⟩
    rw [entry]
    refine ⟨rfl, rfl, rfl, rfl, rfl, rfl, rfl, lap, ?_, ?_, rfl⟩
    · show s.poseAge c.pose = _
      cases c.pose <;> rfl
    · show shownPose c.pose = _
      cases c.pose <;> rfl

/-! ### SET_PUSH (R155) -/

theorem pushIntervalInRange_iff (interval : Nat) :
    pushIntervalInRange interval = true ↔ interval = 0 ∨ (16 ≤ interval ∧ interval ≤ 1000) :=
  decide_eq_true_iff

/-- A SET_PUSH whose reserved bytes are zero is its answer alone (R185). -/
theorem exec_setPush_plain {s : State} {p : Port} {r : Request} (asked : s.localRequest p .setPush = some r)
    (reserved : RequestKind.setPush.reservedNonzero r.payload = false) :
    exec (.setPush p) s = .next (s.answer p .setPush (performSetPush p)) := by
  show Host.Outcome.next (s.answerSetPush p) = _
  unfold State.answerSetPush
  rw [asked]
  exact congrArg _ (State.reportReserved_zero (by rw [(State.localRequest_spec asked).1]; exact reserved))

/-- A change of one port is what it makes of that port. -/
theorem State.modifyPort_congr {s : State} {p : Port} {f g : PortState → PortState}
    (same : f (s.port p) = g (s.port p)) : s.modifyPort p f = s.modifyPort p g :=
  congrArg (fun c => { s with ports := s.ports.set p c }) same

/-- An accepted SET_PUSH: the answer, and on its port the interval, with the timer running from it but in IDLE or
with interval 0 (R155). -/
theorem exec_setPush_accepted {s : State} {p : Port} {r : Request} (asked : s.localRequest p .setPush = some r)
    (reserved : RequestKind.setPush.reservedNonzero r.payload = false) (free : (s.port p).fenced = false)
    (range : pushIntervalInRange (halfAt r.payload 0) = true) :
    exec (.setPush p) s =
      .next ((s.answeredLocally p (.setPush (halfAt r.payload 0))).modifyPort p fun c =>
        { c with pushInterval := halfAt r.payload 0
                 pushTimer := if halfAt r.payload 0 = 0 ∨ s.race.phase = .idle then none
                   else some (halfAt r.payload 0) }) := by
  have inside : ¬(!pushIntervalInRange (halfAt r.payload 0)) = true := by
    rw [range]
    decide
  have done : performSetPush p r (s.requestTaken p) = _ :=
    (if_neg (s.requestTaken_passes free)).trans (if_neg inside)
  rw [State.requestTaken] at done
  rw [exec_setPush_plain asked reserved, State.answer_some asked, done]
  dsimp only
  rw [State.answeredLocally, State.modifyPort_modifyPort, State.modifyPort_modifyPort,
    State.modifyPort_modifyPort]
  rfl

/-- Settles O40: the fence and the range refuse; what passes them sets the interval, and the timer by interval
and phase. In IDLE the timer that is left is a stopped one. -/
theorem setPushSetsTheInterval : Obligations.SetPushSetsTheInterval := by
  intro s p r asked low high idleStopped
  have reserved : RequestKind.setPush.reservedNonzero r.payload = false := by
    simp [RequestKind.reservedNonzero, low, high]
  have listed : (RequestKind.setPush, Instr.setPush p) ∈
      [(.identify, .identify p), (.nop, .nop p), (.setPush, .setPush p)] := by simp
  have accepted := fun free range => exec_setPush_accepted asked reserved free ((pushIntervalInRange_iff _).mpr range)
  refine ⟨fun fenced => ?_, fun free outside => ?_, fun free zero => ?_, fun free range started => ?_,
    fun free range idle => ?_⟩
  · exact exec_refused_locally asked reserved listed
      (RequestKind.perform_fenced r (by decide) ((s.requestTaken_fenced p p).trans fenced))
  · have fails : (!pushIntervalInRange (halfAt r.payload 0)) = true := by
      rw [Bool.not_eq_true', ← Bool.not_eq_true, pushIntervalInRange_iff]
      omega
    exact exec_refused_locally asked reserved listed ((if_neg (s.requestTaken_passes free)).trans (if_pos fails))
  · have runs := accepted free (.inl zero)
    rwa [if_pos (.inl zero), zero] at runs
  · have runs := accepted free (.inr range)
    rwa [if_neg (not_or.mpr ⟨by omega, started⟩)] at runs
  · have stays : ((s.answeredLocally p (.setPush (halfAt r.payload 0))).port p).pushTimer = none := by
      rw [State.answeredLocally, State.modifyPort_port_self]
      exact idleStopped idle
    refine (accepted free (.inr range)).trans (congrArg _ (State.modifyPort_congr ?_))
    rw [if_pos (.inr idle), ← stays]

end Sys2Proof.Machine
end

section
/-! PROOF. The tick count and the waiting commands (R147; log 1, log 4, log 15): every command but a tick and the
hardware reset leaves the count, and every command leaves the commands that wait. -/
namespace Sys2Proof.Machine

/-! ### The tick count and the waiting commands -/

/-- The tick count and the waiting commands are the same. -/
structure State.KeepsTicks (s t : State) : Prop where
  ticks : t.tickCount = s.tickCount
  commands : t.pending = s.pending

section
variable {s t u : State}

theorem State.KeepsTicks.refl (s : State) : s.KeepsTicks s := ⟨rfl, rfl⟩

theorem State.KeepsTicks.trans (h : s.KeepsTicks t) (k : t.KeepsTicks u) : s.KeepsTicks u :=
  ⟨k.ticks.trans h.ticks, k.commands.trans h.commands⟩

theorem State.LeavesPorts.keepsTicks (h : s.LeavesPorts t) : s.KeepsTicks t := ⟨h.ticks, h.commands⟩

theorem State.TellsPorts.keepsTicks (h : s.TellsPorts t) : s.KeepsTicks t := ⟨h.ticks, h.commands⟩

theorem State.modifyPort_keepsTicks (s : State) (p : Port) (f : PortState → PortState) :
    s.KeepsTicks (s.modifyPort p f) := ⟨rfl, rfl⟩

/-- What each port's expiry keeps, the expiries of all ports keep. -/
theorem State.foldl_keepsTicks {expiry : State → Port → State}
    (keeps : ∀ (u : State) (p : Port), u.KeepsTicks (expiry u p)) (ports : List Port) (s : State) : s.KeepsTicks (ports.foldl expiry s) :=
  List.foldlRecOn ports expiry (.refl s) fun _ kept p _ => kept.trans (keeps _ p)

/-! ### Grants and answers (R61, R176) -/

theorem State.grant_keepsTicks {p : Port} {k : RequestKind} {perform : Request → State → State × Response}
    (keeps : ∀ (r : Request) (u : State), u.KeepsTicks (perform r u).1) : s.KeepsTicks (s.grant p k perform) := by
  cases waits : s.granted p k with
  | none => rw [State.grant_none waits]; exact .refl s
  | some r =>
    rw [State.grant_some waits]
    have performed := keeps r (s.modifyPort p PortState.dropRequest)
    exact ⟨performed.ticks, performed.commands⟩

theorem State.answer_keepsTicks {p : Port} {k : RequestKind} {perform : Request → State → State × Response}
    (keeps : ∀ (r : Request) (u : State), u.KeepsTicks (perform r u).1) : s.KeepsTicks (s.answer p k perform) := by
  cases waits : s.localRequest p k with
  | none => rw [State.answer_none waits]; exact .refl s
  | some r =>
    rw [State.answer_some waits]
    have performed := keeps r (s.modifyPort p PortState.dropRequest)
    exact ⟨performed.ticks, performed.commands⟩

end

/-! ### Presence, major errors and the loss of a link (R131 to R143, R179) -/

theorem State.lateEffects_keepsTicks (s : State) (p : Port) (reason : Reason) :
    s.KeepsTicks (s.lateEffects p reason) := by
  unfold State.lateEffects
  split_ifs
  · exact ⟨rfl, rfl⟩
  · exact .refl s
  · exact s.holdTest_tellsPorts.keepsTicks
  · exact .refl s

theorem State.returnEffects_keepsTicks (s : State) (p : Port) : s.KeepsTicks (s.returnEffects p) := by
  unfold State.returnEffects
  split_ifs
  · exact ⟨rfl, rfl⟩
  · exact .refl s
  · exact s.holdTest_tellsPorts.keepsTicks
  · exact .refl s

theorem State.lostEffects_keepsTicks (s : State) (p : Port) : s.KeepsTicks (s.lostEffects p) := by
  unfold State.lostEffects
  cases phase : s.race.phase with
  | idle => exact .refl s
  | forming | grid | countdown =>
    dsimp only
    split
    · exact (State.withdrawAndTest_leavesPorts (by simp [phase]) p _).keepsTicks
    · exact .refl s
  | green | finishing =>
    dsimp only
    split
    · exact (State.retire_leavesPorts (by simp [phase]) p _).keepsTicks
    · exact .refl s
  | results =>
    dsimp only
    split
    · exact (State.release_leavesPorts (by simp [phase]) p).keepsTicks
    · exact .refl s

theorem State.goLate_keepsTicks (s : State) (p : Port) (reason : Reason) : s.KeepsTicks (s.goLate p reason) :=
  (s.modifyPort_keepsTicks p _).trans (State.lateEffects_keepsTicks _ p reason)

theorem State.becomePresent_keepsTicks (s : State) (p : Port) : s.KeepsTicks (s.becomePresent p) := by
  have heard := s.modifyPort_keepsTicks p fun c =>
    { c with presence := .present, silence := .first firstStageLength }
  unfold State.becomePresent
  dsimp only
  split
  · exact heard.trans (State.returnEffects_keepsTicks _ p)
  · exact heard

theorem State.becomeLost_keepsTicks (s : State) (p : Port) : s.KeepsTicks (s.becomeLost p) :=
  (s.modifyPort_keepsTicks p _).trans (State.lostEffects_keepsTicks _ p)

theorem State.fence_keepsTicks (s : State) (p : Port) : s.KeepsTicks (s.fence p) := by
  have fenced := s.modifyPort_keepsTicks p fun c => { c with fenced := true }
  unfold State.fence
  dsimp only
  cases (s.port p).presence with
  | present | lost => exact fenced.trans (State.goLate_keepsTicks _ p _)
  | late | absent => exact fenced

theorem State.majorError_keepsTicks (s : State) (p : Port) (kind : ErrorKind) (requestKind : Option Byte) :
    s.KeepsTicks (s.majorError p kind requestKind) := by
  unfold State.majorError
  split
  · exact ⟨rfl, rfl⟩
  · split_ifs
    · exact .refl s
    · exact s.fence_keepsTicks p
    · exact s.modifyPort_keepsTicks p _

theorem State.reportReserved_keepsTicks (s : State) (p : Port) (r : Request) :
    s.KeepsTicks (s.reportReserved p r) := by
  unfold State.reportReserved
  split
  · exact s.majorError_keepsTicks p _ _
  · exact .refl s

theorem State.linkDown_keepsTicks (s : State) (p : Port) : s.KeepsTicks (s.linkDown p) := by
  have dropped := s.modifyPort_keepsTicks p PortState.dropLink
  unfold State.linkDown
  dsimp only
  split
  · exact dropped.trans (State.goLate_keepsTicks _ p _)
  · exact dropped

/-! ### What a port answers itself (R63, R176) -/

theorem State.answerIdentify_keepsTicks (s : State) (p : Port) : s.KeepsTicks (s.answerIdentify p) :=
  State.answer_keepsTicks fun r u => by rw [performIdentify_state]; exact .refl u

theorem State.answerNop_keepsTicks (s : State) (p : Port) : s.KeepsTicks (s.answerNop p) :=
  State.answer_keepsTicks fun r u => by rw [performNop_state]; exact .refl u

theorem performSetPush_keepsTicks (p : Port) (r : Request) (s : State) :
    s.KeepsTicks (performSetPush p r s).1 := by
  unfold performSetPush
  dsimp only
  split
  · exact .refl s
  split
  · exact .refl s
  · dsimp only
    exact s.modifyPort_keepsTicks p _

theorem State.answerSetPush_keepsTicks (s : State) (p : Port) : s.KeepsTicks (s.answerSetPush p) := by
  unfold State.answerSetPush
  split
  · exact .refl s
  · exact (State.answer_keepsTicks (performSetPush_keepsTicks p)).trans (State.reportReserved_keepsTicks _ p _)

theorem State.clearErrors_keepsTicks (s : State) (p : Port) : s.KeepsTicks (s.clearErrors p) := by
  unfold State.clearErrors
  dsimp only
  split
  · exact .refl s
  · exact (s.modifyPort_keepsTicks p _).trans (State.becomePresent_keepsTicks _ p)

theorem State.answerClearErrors_keepsTicks (s : State) (p : Port) : s.KeepsTicks (s.answerClearErrors p) :=
  State.answer_keepsTicks fun _ u => u.clearErrors_keepsTicks p

theorem State.answerUnknown_keepsTicks (s : State) (p : Port) : s.KeepsTicks (s.answerUnknown p) := by
  unfold State.answerUnknown
  split
  · exact s.modifyPort_keepsTicks p _
  · exact .refl s
  · exact .refl s

theorem State.answerHead_keepsTicks (s : State) (p : Port) : s.KeepsTicks (s.answerHead p) := by
  unfold State.answerHead
  split
  · exact .refl s
  · exact s.answerUnknown_keepsTicks p
  · split
    · exact s.answerIdentify_keepsTicks p
    · exact s.answerNop_keepsTicks p
    · exact s.answerSetPush_keepsTicks p
    · exact s.answerClearErrors_keepsTicks p
    all_goals exact .refl s

/-! ### The events of a link (R171 to R175, R178) -/

theorem State.frameArrives_keepsTicks (s : State) (p : Port) : s.KeepsTicks (s.frameArrives p) := by
  have up := s.modifyPort_keepsTicks p fun c => { c with link := .up, badChecks := 0 }
  unfold State.frameArrives State.validFramePresence
  split
  · exact up
  · exact up.trans (State.becomePresent_keepsTicks _ p)

theorem State.sortFrame_keepsTicks (s : State) (p : Port) (kind : Byte) (payload : List Byte) :
    s.KeepsTicks (s.sortFrame p kind payload) := by
  unfold State.sortFrame
  split
  · split
    · exact s.modifyPort_keepsTicks p _
    · exact s.majorError_keepsTicks p _ _
  · exact (s.modifyPort_keepsTicks p _).trans (State.majorError_keepsTicks _ p _ _)

theorem State.validFrame_keepsTicks (s : State) (p : Port) (kind : Byte) (payload : List Byte) :
    s.KeepsTicks (s.validFrame p kind payload) := by
  have sorted := (s.frameArrives_keepsTicks p).trans (State.sortFrame_keepsTicks _ p kind payload)
  unfold State.validFrame
  dsimp only
  split
  · exact sorted.trans (State.answerHead_keepsTicks _ p)
  · exact sorted

theorem State.badLengthFrame_keepsTicks (s : State) (p : Port) : s.KeepsTicks (s.badLengthFrame p) := by
  unfold State.badLengthFrame
  split
  · exact s.majorError_keepsTicks p _ _
  · exact .refl s

theorem State.badCheckFrame_keepsTicks (s : State) (p : Port) : s.KeepsTicks (s.badCheckFrame p) := by
  have reported := (s.modifyPort_keepsTicks p fun c => { c with badChecks := c.badChecks + 1 }).trans
    (State.majorError_keepsTicks _ p .badCheck none)
  unfold State.badCheckFrame
  split
  · exact .refl s
  · dsimp only
    split
    · exact reported.trans (State.linkDown_keepsTicks _ p)
    · exact reported

theorem State.lossOfSignal_keepsTicks (s : State) (p : Port) : s.KeepsTicks (s.lossOfSignal p) := by
  unfold State.lossOfSignal
  split
  · exact s.linkDown_keepsTicks p
  · exact s.modifyPort_keepsTicks p _

/-! ### The expiries (R17) -/

theorem State.gridWaitExpiry_keepsTicks (s : State) : s.KeepsTicks s.gridWaitExpiry := by
  unfold State.gridWaitExpiry
  split
  · next due =>
    have left := s.withdrawEach_tellsPorts .readyMissed s.enteredPorts
    have started := left.started (by simp [due.1])
    dsimp only
    split
    · exact (left.followed (State.returnToIdle_leavesPorts started _)).keepsTicks
    · exact (left.trans (State.enterCountdown_tellsPorts started)).keepsTicks
  · exact .refl s

theorem State.countdownExpiry_keepsTicks (s : State) : s.KeepsTicks s.countdownExpiry := by
  unfold State.countdownExpiry
  split
  · exact ⟨rfl, rfl⟩
  · exact .refl s

theorem State.closingWindowExpiry_keepsTicks (s : State) : s.KeepsTicks s.closingWindowExpiry := by
  unfold State.closingWindowExpiry
  split
  · next due => exact (State.enterResults_leavesPorts (by simp [due.1]) _).keepsTicks
  · exact .refl s

theorem State.resultsHoldExpiry_keepsTicks (s : State) : s.KeepsTicks s.resultsHoldExpiry := by
  unfold State.resultsHoldExpiry
  split
  · next due => exact (State.returnToIdle_leavesPorts (by simp [due.1]) _).keepsTicks
  · exact .refl s

theorem State.voteExpiry_keepsTicks (s : State) (p : Port) : s.KeepsTicks (s.voteExpiry p) := by
  unfold State.voteExpiry
  split
  · exact ⟨rfl, rfl⟩
  · exact .refl s

theorem State.silenceFirstStageExpiry_keepsTicks (s : State) (p : Port) :
    s.KeepsTicks (s.silenceFirstStageExpiry p) := by
  unfold State.silenceFirstStageExpiry
  split
  · exact s.goLate_keepsTicks p _
  · exact .refl s

theorem State.silenceSecondStageExpiry_keepsTicks (s : State) (p : Port) :
    s.KeepsTicks (s.silenceSecondStageExpiry p) := by
  unfold State.silenceSecondStageExpiry
  split
  · exact s.becomeLost_keepsTicks p
  · exact .refl s

theorem State.pushTimerExpiry_keepsTicks (s : State) (p : Port) : s.KeepsTicks (s.pushTimerExpiry p) := by
  unfold State.pushTimerExpiry
  split
  · exact s.modifyPort_keepsTicks p _
  · exact .refl s

/-! ### The tick (R147) -/

theorem State.takeDue_keepsTicks (s : State) : s.KeepsTicks s.takeDue := by
  have window := s.entryWindowExpiry_leavesPorts.keepsTicks
  have grid := window.trans (State.gridWaitExpiry_keepsTicks _)
  have countdown := grid.trans (State.countdownExpiry_keepsTicks _)
  have closing := countdown.trans (State.closingWindowExpiry_keepsTicks _)
  have timers := closing.trans (State.resultsHoldExpiry_keepsTicks _)
  have votes := timers.trans (State.foldl_keepsTicks State.voteExpiry_keepsTicks allPorts _)
  have first := votes.trans (State.foldl_keepsTicks State.silenceFirstStageExpiry_keepsTicks allPorts _)
  have second := first.trans (State.foldl_keepsTicks State.silenceSecondStageExpiry_keepsTicks allPorts _)
  exact second.trans (State.foldl_keepsTicks State.pushTimerExpiry_keepsTicks allPorts _)

/-- The tick that reaches the race limit counts, and its entry into RESULTS does not (R35, log 4). -/
theorem State.limitTick_keepsTicks {s : State} (limit : s.atLimit = true) : s.countTick.KeepsTicks s.limitTick := by
  have started : s.countTick.race.phase ≠ .idle := Phase.ne_idle_of_running (Bool.and_eq_true_iff.mp limit).1
  exact (State.enterResults_leavesPorts started .limit).keepsTicks

/-- A tick counts once, with the race limit or without, whatever falls due in it (R147). -/
theorem State.tick_keepsTicks (s : State) : s.takeDue.countTick.KeepsTicks s.tick := by
  unfold State.tick
  split
  · next limit => exact State.limitTick_keepsTicks limit
  · exact .refl _

/-- The count of a tick on a state that keeps the ticks of another. -/
theorem State.KeepsTicks.counted {s t u : State} (h : s.KeepsTicks t) (k : t.countTick.KeepsTicks u) :
    u.tickCount = s.tickCount + 1 ∧ u.pending = s.pending :=
  ⟨k.ticks.trans (congrArg (· + 1) h.ticks), k.commands.trans h.commands⟩

/-! ### Every command -/

/-- Every command but a tick and the hardware reset keeps the tick count. -/
theorem exec_keepsTicks (c : Instr) (s : State) (tick : c ≠ .tick) (limit : c ≠ .raceLimit)
    (reset : c ≠ .hardwareReset) : ∃ t : State, exec c s = .next t ∧ s.KeepsTicks t := by
  cases c with
  | tick => exact absurd rfl tick
  | raceLimit => exact absurd rfl limit
  | hardwareReset => exact absurd rfl reset
  | openRace p => exact ⟨_, rfl, State.grant_keepsTicks fun r u => (performOpenRace_leavesPorts p r u).keepsTicks⟩
  | setRules p =>
    have done : s.KeepsTicks (s.grant p .setRules (performSetRules p)) :=
      State.grant_keepsTicks fun r u => (performSetRules_tellsPorts p r u).keepsTicks
    refine ⟨_, rfl, ?_⟩
    split
    · exact .refl s
    · split
      · exact done.trans (State.entryWindowExpiry_leavesPorts _).keepsTicks
      · exact done
  | loadCourse p =>
    exact ⟨_, rfl, State.grant_keepsTicks fun r u => (performLoadCourse_leavesPorts p r u).keepsTicks⟩
  | enter p => exact ⟨_, rfl, State.grant_keepsTicks fun r u => (performEnter_leavesPorts p r u).keepsTicks⟩
  | carSetup p =>
    have done : s.KeepsTicks (s.grant p .carSetup (performCarSetup p)) :=
      State.grant_keepsTicks fun r u => (performCarSetup_leavesPorts p r u).keepsTicks
    refine ⟨_, rfl, ?_⟩
    split
    · exact .refl s
    · exact done.trans (State.reportReserved_keepsTicks _ p _)
  | closeEntries p =>
    exact ⟨_, rfl, State.grant_keepsTicks fun r u => (performCloseEntries_leavesPorts p r u).keepsTicks⟩
  | ready p => exact ⟨_, rfl, State.grant_keepsTicks fun r u => (performReady_leavesPorts p r u).keepsTicks⟩
  | leave p => exact ⟨_, rfl, State.grant_keepsTicks fun r u => (performLeave_leavesPorts p r u).keepsTicks⟩
  | report p => exact ⟨_, rfl, State.grant_keepsTicks fun r u => (performReport_leavesPorts p r u).keepsTicks⟩
  | clearFlags p =>
    exact ⟨_, rfl, State.grant_keepsTicks fun r u => (performClearFlags_leavesPorts p r u).keepsTicks⟩
  | snapshot p =>
    exact ⟨_, rfl, State.grant_keepsTicks fun r u => by rw [performSnapshot_state]; exact .refl u⟩
  | readLaps p =>
    exact ⟨_, rfl, State.grant_keepsTicks fun r u => by rw [performReadLaps_state]; exact .refl u⟩
  | readResults p =>
    exact ⟨_, rfl, State.grant_keepsTicks fun r u => by rw [performReadResults_state]; exact .refl u⟩
  | abortVote p =>
    exact ⟨_, rfl, State.grant_keepsTicks fun r u => (performAbortVote_leavesPorts p r u).keepsTicks⟩
  | withdrawVote p =>
    exact ⟨_, rfl, State.grant_keepsTicks fun r u => (performWithdrawVote_leavesPorts p r u).keepsTicks⟩
  | identify p => exact ⟨_, rfl, s.answerIdentify_keepsTicks p⟩
  | nop p => exact ⟨_, rfl, s.answerNop_keepsTicks p⟩
  | setPush p => exact ⟨_, rfl, s.answerSetPush_keepsTicks p⟩
  | clearErrors p => exact ⟨_, rfl, s.answerClearErrors_keepsTicks p⟩
  | unknownFrameAnswer p => exact ⟨_, rfl, s.answerUnknown_keepsTicks p⟩
  | validFrame p kind payload =>
    refine ⟨_, rfl, ?_⟩
    split
    · exact s.validFrame_keepsTicks p kind payload
    · exact s.badLengthFrame_keepsTicks p
  | badCheckFrame p => exact ⟨_, rfl, s.badCheckFrame_keepsTicks p⟩
  | badLengthFrame p => exact ⟨_, rfl, s.badLengthFrame_keepsTicks p⟩
  | resynchronisingCandidateDiscard p => exact ⟨_, rfl, .refl s⟩
  | lossOfSignal p => exact ⟨_, rfl, s.lossOfSignal_keepsTicks p⟩
  | entryWindowExpiry => exact ⟨_, rfl, s.entryWindowExpiry_leavesPorts.keepsTicks⟩
  | gridWaitExpiry => exact ⟨_, rfl, s.gridWaitExpiry_keepsTicks⟩
  | countdownExpiry => exact ⟨_, rfl, s.countdownExpiry_keepsTicks⟩
  | closingWindowExpiry => exact ⟨_, rfl, s.closingWindowExpiry_keepsTicks⟩
  | resultsHoldExpiry => exact ⟨_, rfl, s.resultsHoldExpiry_keepsTicks⟩
  | voteExpiry p => exact ⟨_, rfl, s.voteExpiry_keepsTicks p⟩
  | silenceFirstStageExpiry p => exact ⟨_, rfl, s.silenceFirstStageExpiry_keepsTicks p⟩
  | silenceSecondStageExpiry p => exact ⟨_, rfl, s.silenceSecondStageExpiry_keepsTicks p⟩
  | pushTimerExpiry p => exact ⟨_, rfl, s.pushTimerExpiry_keepsTicks p⟩
  | transmitTake p => exact ⟨_, rfl, s.modifyPort_keepsTicks p _⟩

/-- The race limit is a tick that counts, or nothing (log 4). -/
theorem exec_raceLimit_counts (s : State) : ∃ t : State, exec .raceLimit s = .next t ∧
    (t.tickCount = s.tickCount + 1 ∧ t.pending = s.pending ∨ t = s) := by
  refine ⟨_, rfl, ?_⟩
  split
  · next limit => exact .inl (s.takeDue_keepsTicks.counted (State.limitTick_keepsTicks limit))
  · exact .inr rfl

/-- Settles O2: the tick, the race limit and the hardware reset by themselves, every other command by what it
keeps. -/
theorem everyCommandCompletes : Obligations.EveryCommandCompletes := by
  intro c s
  by_cases tick : c = .tick
  · subst tick
    obtain ⟨counts, commands⟩ := s.takeDue_keepsTicks.counted s.tick_keepsTicks
    exact ⟨s.tick, rfl, commands, fun _ => counts, nofun, nofun, fun other => absurd rfl other⟩
  by_cases limit : c = .raceLimit
  · subst limit
    obtain ⟨t, runs, counts⟩ := exec_raceLimit_counts s
    have commands : t.pending = s.pending := counts.elim And.right (congrArg State.pending)
    exact ⟨t, runs, commands, nofun, fun _ => counts.imp_left And.left, nofun, fun _ other => absurd rfl other⟩
  by_cases reset : c = .hardwareReset
  · subst reset
    exact ⟨_, rfl, rfl, nofun, nofun, fun _ => rfl, fun _ _ other => absurd rfl other⟩
  · obtain ⟨t, runs, keeps⟩ := exec_keepsTicks c s tick limit reset
    exact ⟨t, runs, keeps.commands, fun is => absurd is tick, fun is => absurd is limit,
      fun is => absurd is reset, fun _ _ _ => keeps.ticks⟩

end Sys2Proof.Machine
end

section
/-! PROOF. Notices offered to a port (R162), and the bounds of every notice queue through the operations of the
race, which reach the queues by offering notices alone (R160). -/
namespace Sys2Proof.Machine

/-! ### One port (R162) -/

theorem PortState.offer_room {c : PortState} (n : Notice) (up : c.link = .up) (room : c.noticeQueue.length < 16) :
    c.offer n = { c with noticeQueue := c.noticeQueue ++ [n] } := by
  unfold PortState.offer
  rw [up]
  exact if_pos room

theorem PortState.offer_full {c : PortState} (n : Notice) (up : c.link = .up) (full : 16 ≤ c.noticeQueue.length) :
    c.offer n = { c with overflow := true } := by
  unfold PortState.offer
  rw [up]
  exact if_neg (Nat.not_lt.mpr full)

/-- An offer keeps the queue at 16 notices at most. -/
theorem PortState.offer_bounded {c : PortState} (n : Notice) (bounded : c.noticeQueue.length ≤ 16) :
    (c.offer n).noticeQueue.length ≤ 16 := by
  cases link : c.link with
  | down =>
    rw [PortState.offer_down n link]
    exact bounded
  | up =>
    rcases Nat.lt_or_ge c.noticeQueue.length 16 with room | full
    · rw [PortState.offer_room n link room, List.length_append]
      exact room
    · rw [PortState.offer_full n link full]
      exact bounded

/-- Settles O50: the link and the length of the queue say which of the three becomes of the notice. -/
theorem noticesOfferedToAPort : Obligations.NoticesOfferedToAPort := fun c n bounded =>
  ⟨PortState.offer_down n, PortState.offer_room n, fun up full => PortState.offer_full n up full.ge,
    c.offer_bounded n bounded⟩

/-- The notice queue of a port is within its bounds, full while the overflow condition is set, and empty while the
link is DOWN (R162, R179). -/
structure PortState.NoticesBounded (c : PortState) : Prop where
  notices : c.noticeQueue.length ≤ 16
  overflowFull : c.overflow = true → c.noticeQueue.length = 16
  downEmpty : c.link = .down → c.noticeQueue = [] ∧ c.overflow = false

theorem PortState.NoticesBounded.offer {c : PortState} (h : c.NoticesBounded) (n : Notice) :
    (c.offer n).NoticesBounded := by
  cases link : c.link with
  | down =>
    rw [PortState.offer_down n link]
    exact h
  | up =>
    refine ⟨c.offer_bounded n h.notices, fun overflow => ?_, fun down => ?_⟩
    · rcases Nat.lt_or_ge c.noticeQueue.length 16 with room | full
      · rw [PortState.offer_room n link room] at overflow
        exact absurd (h.overflowFull overflow) room.ne
      · rw [PortState.offer_full n link full]
        exact le_antisymm h.notices full
    · rw [PortState.offer_link, link] at down
      cases down

/-! ### Every port -/

/-- The notice queue of every port is within its bounds. -/
def State.NoticesBounded (s : State) : Prop := ∀ q : Port, (s.port q).NoticesBounded

namespace State.NoticesBounded
variable {s : State}

theorem notify (h : s.NoticesBounded) (sel : Port → Bool) (n : Notice) : (s.notify sel n).NoticesBounded :=
  fun q => by
    rw [State.notify_port]
    split
    · exact (h q).offer n
    · exact h q

theorem notifyRace (h : s.NoticesBounded) (n : Notice) : (s.notifyRace n).NoticesBounded := h.notify _ n

theorem notifyOwn (h : s.NoticesBounded) (p : Port) (n : Notice) : (s.notifyOwn p n).NoticesBounded := h.notify _ n

theorem notifyPhase (h : s.NoticesBounded) (r : PhaseReport) : (s.notifyPhase r).NoticesBounded := h.notify _ _

theorem notifyVotes (h : s.NoticesBounded) : s.notifyVotes.NoticesBounded := h.notify _ _

/-- The notices of a move: POSITION notices one after another, and a LEADER notice (R100, R101). -/
theorem notifyMove (h : s.NoticesBounded) (old : List Port) : (s.notifyMove old).NoticesBounded := by
  have places : (s.notifyPositions old s.runningOrder).NoticesBounded :=
    List.foldlRecOn _ _ h fun u bounded e _ => by
      split
      · exact bounded
      · split
        · exact bounded
        · exact bounded.notifyOwn _ _
  unfold State.notifyMove State.notifyLeader
  split
  · exact places
  · split
    · exact places
    · exact places.notifyRace _

theorem modifyCar (h : s.NoticesBounded) (p : Port) (f : Car → Car) : (s.modifyCar p f).NoticesBounded := h

theorem modifyRace (h : s.NoticesBounded) (f : RaceRecord → RaceRecord) : (s.modifyRace f).NoticesBounded := h

/-! ### The phases of a race (R21 to R40, R113 to R118) -/

theorem returnToIdle (h : s.NoticesBounded) (reason : Reason) : (s.returnToIdle reason).NoticesBounded := by
  have cleared : s.clearRace.NoticesBounded := fun q => by
    have port : s.clearRace.port q = { s.port q with pushTimer := none } := Bank.get_map _ _ q
    obtain ⟨notices, overflowFull, downEmpty⟩ := h q
    rw [port]
    exact ⟨notices, overflowFull, downEmpty⟩
  exact cleared.notifyPhase _

theorem enterGrid (h : s.NoticesBounded) : s.enterGrid.NoticesBounded := (h.modifyRace _).notifyPhase _

theorem entryWindowExpiry (h : s.NoticesBounded) : s.entryWindowExpiry.NoticesBounded := by
  unfold State.entryWindowExpiry
  split
  · split
    · exact h.enterGrid
    · exact h.returnToIdle _
  · exact h

theorem enterCountdown (h : s.NoticesBounded) : s.enterCountdown.NoticesBounded := by
  unfold State.enterCountdown
  split
  · exact ((h.modifyRace _).notifyPhase _).notifyPhase _
  · exact (h.modifyRace _).notifyPhase _

theorem holdTest (h : s.NoticesBounded) : s.holdTest.NoticesBounded := by
  unfold State.holdTest
  split
  · split
    · exact (h.modifyRace _).notifyPhase _
    · exact (h.modifyRace _).notifyPhase _
    · exact h
    · exact h
  · exact h

theorem gridTests (h : s.NoticesBounded) : s.gridTests.NoticesBounded := by
  unfold State.gridTests
  split_ifs
  · exact h.returnToIdle _
  · exact h.enterCountdown
  · exact h

theorem countdownTests (h : s.NoticesBounded) : s.countdownTests.NoticesBounded := by
  unfold State.countdownTests
  split
  · exact h.returnToIdle _
  · exact h.holdTest

theorem handover (h : s.NoticesBounded) : s.handover.NoticesBounded := by
  unfold State.handover
  split
  · exact (h.modifyRace _).notifyPhase _
  · exact h.returnToIdle _

theorem withdraw (h : s.NoticesBounded) (p : Port) (reason : Reason) : (s.withdraw p reason).NoticesBounded := by
  unfold State.withdraw
  split
  · exact h
  · next c _ =>
    have removed : ((s.notifyRace (.entry p .withdrawn reason c.entryPosition)).removeEntry p
        c.entryPosition).NoticesBounded := h.notifyRace _
    exact removed.notifyMove _

theorem withdrawEach (h : s.NoticesBounded) (reason : Reason) (l : List Port) :
    (s.withdrawEach l reason).NoticesBounded :=
  List.foldlRecOn l _ h fun _ bounded p _ => bounded.withdraw p reason

theorem withdrawAndTest (h : s.NoticesBounded) (p : Port) (reason : Reason) :
    (s.withdrawAndTest p reason).NoticesBounded := by
  have gone := h.withdraw p reason
  unfold State.withdrawAndTest
  dsimp only
  split
  · split
    · exact gone.handover
    · exact gone
  · exact gone.gridTests
  · exact gone.countdownTests
  all_goals exact gone

theorem gridWaitExpiry (h : s.NoticesBounded) : s.gridWaitExpiry.NoticesBounded := by
  have left := h.withdrawEach .readyMissed s.enteredPorts
  unfold State.gridWaitExpiry
  split
  · dsimp only
    split
    · exact left.returnToIdle _
    · exact left.enterCountdown
  · exact h

theorem countdownExpiry (h : s.NoticesBounded) : s.countdownExpiry.NoticesBounded := by
  unfold State.countdownExpiry
  split
  · exact State.NoticesBounded.notifyPhase h _
  · exact h

theorem openRace (h : s.NoticesBounded) (p : Port) : (s.openRace p).NoticesBounded := by
  have entered : ((s.opened p).appendEntry p).NoticesBounded := fun q => by
    have port : ((s.opened p).appendEntry p).port q = (s.port q).startPush := s.opened_port p q
    obtain ⟨notices, overflowFull, downEmpty⟩ := h q
    rw [port, PortState.startPush_same]
    exact ⟨notices, overflowFull, downEmpty⟩
  rw [State.openRace_eq]
  exact (entered.notifyPhase _).notifyRace _

theorem loadCourse (h : s.NoticesBounded) (p : Port) (c : Course) : (s.loadCourse p c).NoticesBounded := by
  have loaded : State.NoticesBounded { s with course := some c } := h
  unfold State.loadCourse
  dsimp only
  split
  · exact loaded
  · exact loaded.withdrawEach _ _

theorem enterCar (h : s.NoticesBounded) (p : Port) : (s.enterCar p).NoticesBounded := by
  have entered : (s.appendEntry p).NoticesBounded := h
  exact entered.notifyRace _

theorem setupCar (h : s.NoticesBounded) (p : Port) (payload : List Byte) (position : Nat) :
    (s.setupCar p payload position).NoticesBounded := by
  unfold State.setupCar
  split
  · exact h.modifyCar p _
  · exact (h.modifyCar p _).notifyRace _

theorem declareReady (h : s.NoticesBounded) (p : Port) : (s.declareReady p).NoticesBounded := by
  have readied := (h.modifyCar p fun c => { c with standing := .ready }).notifyRace (.carState p .ready .none)
  unfold State.declareReady
  dsimp only
  split
  · exact readied.enterCountdown
  · exact readied

/-! ### Results, votes and retirements (R32 to R38, R54, R121 to R125) -/

theorem releaseTest (h : s.NoticesBounded) : s.releaseTest.NoticesBounded := by
  unfold State.releaseTest
  split
  · exact h.returnToIdle _
  · exact h

theorem release (h : s.NoticesBounded) (p : Port) : (s.release p).NoticesBounded := (h.modifyRace _).releaseTest

theorem enterResults (h : s.NoticesBounded) (reason : Reason) : (s.enterResults reason).NoticesBounded := by
  have stopped : ((s.stopRace reason).openResults reason).NoticesBounded := h
  exact (stopped.notifyPhase _).releaseTest

theorem endTests (h : s.NoticesBounded) (afterFinish : Bool) : (s.endTests afterFinish).NoticesBounded := by
  unfold State.endTests
  split_ifs
  iterate 4 exact h.enterResults _
  · exact (h.modifyRace _).notifyPhase _
  · exact h

theorem retirementMove (h : s.NoticesBounded) (p : Port) : (s.retirementMove p).NoticesBounded := h

theorem retire (h : s.NoticesBounded) (p : Port) (reason : Reason) : (s.retire p reason).NoticesBounded := by
  have told := (h.modifyCar p fun c => { c with standing := .retired reason s.raceClock }).notifyRace
    (.carState p .retired reason)
  exact (((told.retirementMove p).notifyMove s.runningOrder).modifyRace _).notifyVotes.endTests false

theorem castVote (h : s.NoticesBounded) (p : Port) : (s.castVote p).NoticesBounded := by
  unfold State.castVote
  dsimp only
  split
  · exact h.modifyRace _
  · exact (h.modifyRace _).notifyVotes

theorem removeVote (h : s.NoticesBounded) (p : Port) : (s.removeVote p).NoticesBounded := by
  unfold State.removeVote
  split
  · exact (h.modifyRace _).notifyVotes
  · exact h

theorem voteExpiry (h : s.NoticesBounded) (p : Port) : (s.voteExpiry p).NoticesBounded := by
  unfold State.voteExpiry
  split
  · exact (h.modifyRace _).notifyVotes
  · exact h

/-! ### Reports (R67 to R84) -/

theorem storePose (h : s.NoticesBounded) (p : Port) (r : Request) : (s.storePose p r).NoticesBounded := by
  rw [State.storePose_spec]
  exact h.modifyCar p _

theorem countdownReport (h : s.NoticesBounded) (p : Port) (r : Request) :
    (s.countdownReport p r).NoticesBounded := by
  have jumped : (s.jumpStart p).NoticesBounded := by
    unfold State.jumpStart
    split
    · exact h
    · dsimp only
      split
      · exact h.modifyCar p _
      · exact (h.modifyCar p _).notifyOwn _ _
  unfold State.countdownReport
  split
  · exact jumped.storePose p r
  · exact h.storePose p r

theorem travelBack (h : s.NoticesBounded) (p : Port) (course : Course) (delta : Int) :
    (s.travelBack p course delta).NoticesBounded := by
  unfold State.travelBack
  split
  · exact h
  · dsimp only
    split
    · exact ((h.modifyCar p _).modifyCar p _).notifyOwn _ _
    · exact h.modifyCar p _

theorem travelForward (h : s.NoticesBounded) (p : Port) (course : Course) (delta : Int) :
    (s.travelForward p course delta).NoticesBounded := by
  unfold State.travelForward
  split
  · exact h
  · dsimp only
    split
    · exact (h.modifyCar p _).notifyOwn _ _
    · exact h.modifyCar p _

theorem finishCar (h : s.NoticesBounded) (p : Port) (now : Nat) : (s.finishCar p now).NoticesBounded := by
  have listed : State.NoticesBounded { s.modifyCar p (fun c => { c with standing := .finished now }) with
      finishList := s.finishList ++ [⟨p, now⟩] } := h
  exact listed.notifyRace _

theorem crossGate (h : s.NoticesBounded) (p : Port) (now : Nat) (course : Course) (c : Car) (g : Gate) :
    (s.crossGate p now course c g).NoticesBounded := by
  have floored := h.modifyCar p fun x =>
    { x with floorGate := g, nextGate := course.next s.race.settings.laps g }
  have lapped := (floored.modifyCar p (Car.completeLap now)).notifyOwn p (.gate g now (some (now - c.lastLine)))
  unfold State.crossGate
  dsimp only
  split
  · exact floored
  · exact floored.notifyOwn _ _
  · split
    · exact lapped.finishCar p now
    · exact lapped

theorem crossGates (p : Port) (now : Nat) (course : Course) (turns : Nat) {s : State} (h : s.NoticesBounded) :
    (s.crossGates p now course turns).NoticesBounded := by
  induction turns generalizing s with
  | zero => exact h
  | succ turns ih =>
    unfold State.crossGates
    split
    · exact h
    · split
      · exact h
      · split
        · exact ih (h.crossGate p now course _ _)
        · exact h

theorem applyDelta (h : s.NoticesBounded) (p : Port) (c : Car) (course : Course) (now : Nat) (carried : Int) :
    (s.applyDelta p c course now carried).NoticesBounded := by
  have rated := h.modifyCar p (Car.markRate (decide (c.allowance now < carried.natAbs)))
  unfold State.applyDelta
  dsimp only
  split_ifs
  · exact rated.travelBack _ _ _
  · exact crossGates _ _ _ _ (rated.travelForward _ _ _)
  · exact rated.modifyCar p _

theorem bookReport (h : s.NoticesBounded) (p : Port) (now before : Nat) (order : List Port) :
    (s.bookReport p now before order).NoticesBounded := by
  have booked := h.modifyCar p (Car.booked now before)
  have finished : ((s.modifyCar p (Car.booked now before)).finishMove p).NoticesBounded := booked
  have placed : ((s.modifyCar p (Car.booked now before)).reinsert p).NoticesBounded := booked
  unfold State.bookReport
  dsimp only
  split
  · exact booked
  · split_ifs
    · exact finished.notifyMove _
    · exact booked
    · exact placed.notifyMove _

theorem fullApplication (h : s.NoticesBounded) (p : Port) (r : Request) :
    (s.fullApplication p r).NoticesBounded := by
  unfold State.fullApplication
  split
  · next c course _ _ =>
    have stored := ((h.applyDelta p c course s.raceClock (reportDelta r.payload)).bookReport p s.raceClock c.distance
      s.runningOrder).storePose p r
    dsimp only
    split
    · exact stored.endTests true
    · exact stored
  · exact h

theorem applyReport (h : s.NoticesBounded) (p : Port) (r : Request) : (s.applyReport p r).NoticesBounded := by
  unfold State.applyReport
  split
  · exact h.countdownReport p r
  · exact h.fullApplication p r
  · exact h.fullApplication p r
  · exact h.storePose p r
  · exact h.storePose p r
  · exact h

/-! ### Presence (R136 to R139) -/

theorem lateEffects (h : s.NoticesBounded) (p : Port) (reason : Reason) :
    (s.lateEffects p reason).NoticesBounded := by
  unfold State.lateEffects
  split_ifs
  · exact (h.modifyCar p _).notifyRace _
  · exact h
  · exact h.holdTest
  · exact h

theorem returnEffects (h : s.NoticesBounded) (p : Port) : (s.returnEffects p).NoticesBounded := by
  unfold State.returnEffects
  split_ifs
  · exact (h.modifyCar p _).notifyRace _
  · exact h
  · exact h.holdTest
  · exact h

theorem lostEffects (h : s.NoticesBounded) (p : Port) : (s.lostEffects p).NoticesBounded := by
  unfold State.lostEffects
  cases s.race.phase with
  | idle => exact h
  | forming | grid | countdown =>
    dsimp only
    split
    · exact h.withdrawAndTest p _
    · exact h
  | green | finishing =>
    dsimp only
    split
    · exact h.retire p _
    · exact h
  | results =>
    dsimp only
    split
    · exact h.release p
    · exact h

/-! ### The race requests (R61) -/

/-- A refusal changes nothing; what a check lets through is left to say. -/
theorem checked {failed : Prop} [Decidable failed] {k : RequestKind} {code : ResultCode}
    {performed : State × Response} (h : s.NoticesBounded) (passes : performed.1.NoticesBounded) :
    (if failed then refuse k code s else performed).1.NoticesBounded := by
  split
  · exact h
  · exact passes

theorem perform {k : RequestKind} (race : k.portLocal = false) (h : s.NoticesBounded) (p : Port) (r : Request) :
    (k.perform p r s).1.NoticesBounded := by
  cases k with
  | identify | nop | setPush | clearErrors => cases race
  | openRace => exact h.checked (h.checked (h.openRace p))
  | setRules =>
    show (performSetRules p r s).1.NoticesBounded
    unfold performSetRules
    split
    · exact h
    · exact h.modifyRace _
  | loadCourse =>
    refine h.checked (h.checked (h.checked (h.checked ?_)))
    split
    · exact h
    · exact h.loadCourse p _
  | enter =>
    refine h.checked (h.checked (h.checked (h.checked ?_)))
    split
    · exact h
    · exact h.checked (h.enterCar p)
  | carSetup =>
    refine h.checked (h.checked ?_)
    split
    · exact h
    · exact h.checked (h.checked (h.checked (h.setupCar p r.payload _)))
  | closeEntries => exact h.checked (h.checked (h.checked (h.checked (h.checked h.enterGrid))))
  | ready =>
    refine h.checked (h.checked ?_)
    split
    · exact h
    · exact h.checked (h.checked (h.declareReady p))
  | leave =>
    refine h.checked ?_
    cases s.race.phase with
    | idle => exact h
    | forming | grid | countdown =>
      dsimp only
      split
      · exact h.withdrawAndTest p _
      · exact h
    | green | finishing =>
      dsimp only
      split
      · exact h
      · exact h.checked (h.retire p _)
    | results =>
      dsimp only
      split
      · exact h.release p
      · exact h
  | report =>
    refine h.checked (h.checked ?_)
    split
    · exact h
    · exact h.checked (h.checked (h.applyReport p r))
  | clearFlags =>
    refine h.checked (h.checked ?_)
    split
    · exact h
    · exact h.checked (h.modifyCar p _)
  | snapshot =>
    show (performSnapshot p r s).1.NoticesBounded
    rw [performSnapshot_state]
    exact h
  | readLaps =>
    show (performReadLaps p r s).1.NoticesBounded
    rw [performReadLaps_state]
    exact h
  | readResults =>
    show (performReadResults p r s).1.NoticesBounded
    rw [performReadResults_state]
    exact h
  | abortVote =>
    refine h.checked (h.checked ?_)
    split
    · exact h
    · refine h.checked (h.checked ?_)
      dsimp only
      split
      · exact (h.castVote p).enterResults _
      · exact h.castVote p
  | withdrawVote => exact h.checked (h.checked (h.checked (h.checked (h.removeVote p))))

end State.NoticesBounded

end Sys2Proof.Machine
end

section
/-! PROOF. A sound port under the changes of its own: its queues and its link (R171, R175, R176, R178, R179), its
push timer (R155 to R157), and its supervision, which is its presence with the silence timer, the error record and the
fence (R131 to R144). -/
namespace Sys2Proof.Machine

/-! ### The parts of a sound port -/

/-- The presence of a port goes with its link and its silence timer, and its fence with its presence and its error
record (Table 7.1, R142, R143, R164). -/
structure PortState.Supervised (c : PortState) : Prop where
  presentUp : c.presence = .present → c.link = .up
  absentDown : c.presence = .absent → c.link = .down
  silence : c.silence.fits c.presence = true
  fencedAway : c.fenced = true → c.presence = .late ∨ c.presence = .lost
  fencedRecord : c.fenced = true → c.errorRecord.map ErrorRecord.multiple = some true

section
variable {c d : PortState} {phase : Phase}

theorem PortState.Sound.supervised (h : c.Sound phase) : c.Supervised :=
  ⟨h.presentUp, h.absentDown, h.silence, h.fencedAway, h.fencedRecord⟩

theorem PortState.Sound.noticesBounded (h : c.Sound phase) : c.NoticesBounded :=
  ⟨h.notices, h.overflowFull, fun down => by
    obtain ⟨-, -, notices, overflow, -⟩ := h.downEmpty down
    exact ⟨notices, overflow⟩⟩

/-- A request waits at an UP link alone. -/
theorem PortState.Sound.up_of_head (h : c.Sound phase) {x : Queued} (head : c.requestQueue.head? = some x) :
    c.link = .up := by
  cases link : c.link with
  | up => rfl
  | down =>
    rw [(h.downEmpty link).1] at head
    cases head

/-- A port on an UP link has been heard. -/
theorem PortState.Supervised.heard (h : c.Supervised) (up : c.link = .up) : c.presence ≠ .absent := fun absent => by
  rw [h.absentDown absent] at up
  cases up

/-- A port whose supervision changes, with notices offered, is sound if its supervision and its notices are. -/
theorem PortState.Sound.resupervised (h : c.Sound phase) (same : d = { c with
      presence := d.presence, silence := d.silence, errorRecord := d.errorRecord, fenced := d.fenced
      noticeQueue := d.noticeQueue, overflow := d.overflow })
    (supervised : d.Supervised) (bounded : d.NoticesBounded) : d.Sound phase where
  requests := by rw [same]; exact h.requests
  responses := by rw [same]; exact h.responses
  notices := bounded.notices
  overflowFull := bounded.overflowFull
  badChecks := by rw [same]; exact h.badChecks
  downEmpty := fun down => by
    obtain ⟨notices, overflow⟩ := bounded.downEmpty down
    rw [same] at down ⊢
    obtain ⟨requests, responses, -, -, rest⟩ := h.downEmpty down
    exact ⟨requests, responses, notices, overflow, rest⟩
  presentUp := supervised.presentUp
  absentDown := supervised.absentDown
  silence := supervised.silence
  fencedAway := supervised.fencedAway
  fencedRecord := supervised.fencedRecord
  push := by rw [same]; exact h.push
  interval := by rw [same]; exact h.interval

/-- Notices and the push timer are no part of the supervision. -/
theorem PortState.Supervised.told (h : c.Supervised) (same : c.SameButNoticesAndPush d) : d.Supervised := by
  rw [same]
  exact ⟨h.presentUp, h.absentDown, h.silence, h.fencedAway, h.fencedRecord⟩

/-- A port on which notices are offered and the push timer goes with the phase stays sound. -/
theorem PortState.Sound.told (h : c.Sound phase) {after : Phase} (same : c.SameButNoticesAndPush d)
    (bounded : d.NoticesBounded)
    (push : d.pushTimer.isSome = true ↔ c.pushInterval ≠ 0 ∧ c.link = .up ∧ after ≠ .idle) : d.Sound after := by
  have timed : ({ c with pushTimer := d.pushTimer } : PortState).Sound after :=
    { h with
      push := push
      downEmpty := h.downEmpty }
  exact timed.resupervised (by rw [same]) (h.supervised.told same) bounded

/-- A port sees of the phase whether it is IDLE. -/
theorem PortState.Sound.of_idle (h : c.Sound phase) {after : Phase} (idle : after = .idle ↔ phase = .idle) :
    c.Sound after :=
  { h with push := h.push.trans (and_congr_right fun _ => and_congr_right fun _ => not_congr idle.symm) }

/-! ### The queues and the link -/

theorem PortState.Sound.dropRequest (h : c.Sound phase) : c.dropRequest.Sound phase :=
  { h with
    requests := (List.tail_sublist _).length_le.trans h.requests
    downEmpty := fun down => by
      obtain ⟨requests, rest⟩ := h.downEmpty down
      exact ⟨by rw [PortState.dropRequest_requestQueue, requests]; rfl, rest⟩ }

theorem PortState.Sound.respond (h : c.Sound phase) (r : Response) (up : c.link = .up)
    (room : c.responseQueue.length < responseCapacity) : (c.respond r).Sound phase :=
  { h with
    responses := by
      rw [PortState.respond_responseQueue, List.length_append]
      exact room
    downEmpty := fun down => absurd (up.symm.trans down) nofun }

theorem PortState.Sound.accept (h : c.Sound phase) (kind : Byte) (payload : List Byte) (arrival : Nat)
    (up : c.link = .up) : (c.accept kind payload arrival).Sound phase := by
  unfold PortState.accept
  split
  · next room =>
    exact { h with
      requests := by
        rw [List.length_append]
        exact room
      downEmpty := fun down => absurd (up.symm.trans down) nofun }
  · split
    · next room => exact h.respond _ up room
    · exact h

/-- The notice that leaves makes room for the OVERFLOW notice (R163). -/
theorem PortState.Sound.takeNotice (h : c.Sound phase) (up : c.link = .up) {n : Notice} {rest : List Notice}
    (queue : c.noticeQueue = n :: rest) (frame : Frame) :
    ({ c.takeNotice rest with sending := some frame } : PortState).Sound phase := by
  have length : rest.length + 1 ≤ noticeCapacity := by
    have notices := h.notices
    rw [queue] at notices
    exact notices
  unfold PortState.takeNotice
  split
  · exact { h with
      notices := by
        rw [List.length_append]
        exact length
      overflowFull := nofun
      downEmpty := fun down => absurd (up.symm.trans down) nofun }
  · next none =>
    exact { h with
      notices := Nat.le_of_succ_le length
      overflowFull := fun overflow => absurd overflow none
      downEmpty := fun down => absurd (up.symm.trans down) nofun }

theorem PortState.Sound.transmitTake (h : c.Sound phase) : c.transmitTake.Sound phase := by
  unfold PortState.transmitTake
  split
  · exact h
  · next up =>
    split
    · next queue =>
      have responses := h.responses
      rw [queue] at responses
      exact { h with
        responses := Nat.le_of_succ_le responses
        downEmpty := fun down => absurd (up.symm.trans down) nofun }
    · split
      · next queue => exact h.takeNotice up queue _
      · split
        · exact { h with downEmpty := fun down => absurd (up.symm.trans down) nofun }
        · exact { h with downEmpty := fun down => absurd (up.symm.trans down) nofun }

/-! ### The push timer -/

/-- The push timer of a sound port starts as the race leaves IDLE (R156). -/
theorem PortState.Sound.startPush (h : c.Sound .idle) (started : phase ≠ .idle) : c.startPush.Sound phase := by
  have stopped : c.pushTimer.isSome ≠ true := fun running => (h.push.mp running).2.2 rfl
  have bounded := h.noticesBounded
  have same := c.startPush_same
  refine h.told (by rw [same]; rfl) ?_ ?_
  · rw [same]
    exact ⟨bounded.notices, bounded.overflowFull, bounded.downEmpty⟩
  · rw [PortState.startPush_pushTimer]
    split
    · next runs => exact ⟨fun _ => ⟨runs.1, runs.2, started⟩, fun _ => rfl⟩
    · next rests => exact ⟨fun running => absurd running stopped, fun ⟨interval, up, _⟩ => absurd ⟨interval, up⟩ rests⟩

/-- The expiry of a push timer that runs captures the race and starts the timer again (R157). -/
theorem PortState.Sound.pushExpired (h : c.Sound phase) (x : Snapshot) (expired : c.pushTimer = some 0) :
    ({ c with pushSlot := some x, pushTimer := some c.pushInterval } : PortState).Sound phase := by
  have runs := h.push.mp (by rw [expired]; rfl)
  exact { h with
    push := ⟨fun _ => runs, fun _ => rfl⟩
    downEmpty := fun down => absurd (runs.2.1.symm.trans down) nofun }

/-- A push interval in its range, with the timer that goes with it and the phase (R155). -/
theorem PortState.Sound.setPush (h : c.Sound phase) (up : c.link = .up) {interval : Nat}
    (range : pushIntervalInRange interval = true) :
    ({ c with pushInterval := interval
              pushTimer := if interval = 0 ∨ phase = .idle then none else some interval } :
      PortState).Sound phase :=
  { h with
    push := by
      dsimp only
      split
      · next rests => exact ⟨nofun, fun ⟨runs, _, started⟩ => absurd rests (not_or_intro runs started)⟩
      · next runs =>
        obtain ⟨some, started⟩ := not_or.mp runs
        exact ⟨fun _ => ⟨some, up, started⟩, fun _ => rfl⟩
    interval := range
    downEmpty := fun down => absurd (up.symm.trans down) nofun }

/-! ### The tick -/

/-- A silence timer that counts goes with the presence as before. -/
theorem SilenceTimer.tick_fits {presence : Presence} {timer : SilenceTimer}
    (fits : timer.fits presence = true) : timer.tick.fits presence = true := by
  cases timer with
  | stopped => exact fits
  | first n =>
    cases presence with
    | present => exact decide_eq_true ((Nat.sub_le n 1).trans (of_decide_eq_true fits))
    | absent | late | lost => cases fits
  | second n =>
    cases presence with
    | late => exact decide_eq_true ((Nat.sub_le n 1).trans (of_decide_eq_true fits))
    | absent | present | lost => cases fits

theorem PortState.Sound.tick (h : c.Sound phase) : c.tick.Sound phase :=
  { h with
    silence := SilenceTimer.tick_fits h.silence
    push := (Iff.of_eq (congrArg (· = true) (Option.isSome_map ..))).trans h.push
    downEmpty := h.downEmpty }

/-! ### The supervision -/

/-- A port that goes LATE. -/
def PortState.wentLate (c : PortState) : PortState :=
  { c with presence := .late, silence := .second secondStageLength }

theorem PortState.Supervised.wentLate (h : c.Supervised) : c.wentLate.Supervised :=
  ⟨nofun, nofun, rfl, fun _ => .inl rfl, h.fencedRecord⟩

theorem PortState.Sound.wentLate (h : c.Sound phase) : c.wentLate.Sound phase :=
  have bounded := h.noticesBounded
  h.resupervised rfl h.supervised.wentLate ⟨bounded.notices, bounded.overflowFull, bounded.downEmpty⟩

theorem PortState.Sound.wentLost (h : c.Sound phase) :
    ({ c with presence := .lost, silence := .stopped } : PortState).Sound phase :=
  { h with presentUp := nofun, absentDown := nofun, silence := rfl, fencedAway := fun _ => .inr rfl }

/-- A port that CLEAR_ERRORS restores (R144). -/
theorem PortState.Sound.restored (h : c.Sound phase) (up : c.link = .up) : c.restored.Sound phase :=
  { h with
    presentUp := fun _ => up
    absentDown := nofun
    silence := rfl
    fencedAway := nofun
    fencedRecord := nofun }

/-- A link that comes UP finds a push interval of 0, and no push timer (R156, R179). -/
theorem PortState.Sound.push_heard (h : c.Sound phase) :
    c.pushTimer.isSome = true ↔ c.pushInterval ≠ 0 ∧ Link.up = .up ∧ phase ≠ .idle := by
  refine h.push.trans (and_congr_right fun some => and_congr_left fun _ => iff_of_true ?_ rfl)
  cases link : c.link with
  | up => rfl
  | down =>
    obtain ⟨-, -, -, -, -, interval, -⟩ := h.downEmpty link
    exact absurd interval some

/-- A frame on the link of a port that is not fenced makes it PRESENT (R131, R171). -/
theorem PortState.Sound.heard (h : c.Sound phase) (free : c.fenced = false) : ({ c with
    link := .up, badChecks := 0, presence := .present, silence := .first 250 } : PortState).Sound phase :=
  { h with
    badChecks := Nat.zero_lt_succ _
    downEmpty := nofun
    presentUp := fun _ => rfl
    absentDown := nofun
    silence := rfl
    fencedAway := fun fenced => absurd (free.symm.trans fenced) nofun
    push := h.push_heard }

/-- A frame on the link of a fenced port leaves its supervision (R131, R171). -/
theorem PortState.Sound.heardFenced (h : c.Sound phase) (fenced : c.fenced = true) :
    ({ c with link := .up, badChecks := 0 } : PortState).Sound phase :=
  { h with
    badChecks := Nat.zero_lt_succ _
    downEmpty := nofun
    presentUp := fun _ => rfl
    absentDown := fun absent => by
      rcases h.fencedAway fenced with away | away <;> exact absurd (absent.symm.trans away) nofun
    push := h.push_heard }

/-- A port whose link goes DOWN, where it is not PRESENT, is sound whatever stood on the link (R179). -/
theorem PortState.Supervised.dropped (h : c.Supervised) (away : c.presence ≠ .present) :
    c.dropLink.Sound phase where
  requests := Nat.zero_le _
  responses := Nat.zero_le _
  notices := Nat.zero_le _
  overflowFull := nofun
  badChecks := Nat.zero_lt_succ _
  downEmpty := fun _ => ⟨rfl, rfl, rfl, rfl, rfl, rfl, rfl, rfl⟩
  presentUp := fun present => absurd present away
  absentDown := fun _ => rfl
  silence := h.silence
  fencedAway := h.fencedAway
  fencedRecord := h.fencedRecord
  push := ⟨nofun, fun ⟨runs, _⟩ => absurd rfl runs⟩
  interval := rfl

end

end Sys2Proof.Machine
end

section
/-! PROOF. Every port stays sound under the effects of presence, major errors and the loss of a link (R131 to R143,
R171, R179), and under the frames that a port receives and the requests that it answers itself (R131, R144, R155,
R174 to R176). -/
namespace Sys2Proof.Machine

section
variable {s t : State} {p : Port}

/-! ### Changes that keep the ports sound -/

theorem State.PortsSound.noticesBounded (h : s.PortsSound) : s.NoticesBounded := fun q => (h q).noticesBounded

/-- Notices offered and push timers that go with the race keep the ports sound, while the race does not leave IDLE. -/
theorem State.PortsSound.left (h : s.PortsSound) (k : s.LeavesPorts t)
    (stays : s.race.phase = .idle → t.race.phase = .idle) (bounded : t.NoticesBounded) : t.PortsSound := fun q => by
  refine (h q).told (k.ports q) (bounded q) ?_
  by_cases ends : s.race.phase ≠ .idle ∧ t.race.phase = .idle
  · rw [k.pushIdle ends.1 ends.2 q]
    exact ⟨nofun, fun ⟨_, _, started⟩ => absurd ends.2 started⟩
  · have both : s.race.phase = .idle ↔ t.race.phase = .idle :=
      ⟨stays, fun idle => by_contra fun started => ends ⟨started, idle⟩⟩
    rw [k.push both q]
    exact ((h q).of_idle both.symm).push

/-- Notices offered keep the ports sound. -/
theorem State.PortsSound.told (h : s.PortsSound) (k : s.TellsPorts t) (bounded : t.NoticesBounded) : t.PortsSound :=
  h.left k.leaves k.idle.mpr bounded

/-- An event of a race that runs or forms keeps the ports sound. -/
theorem State.PortsSound.followed (h : s.PortsSound) (started : s.race.phase ≠ .idle) (k : s.LeavesPorts t)
    (bounded : t.NoticesBounded) : t.PortsSound :=
  h.left k (fun idle => absurd idle started) bounded

theorem State.PortsSound.modifyPort (h : s.PortsSound) {f : PortState → PortState}
    (own : (f (s.port p)).Sound s.race.phase) : (s.modifyPort p f).PortsSound := fun q => by
  rw [State.modifyPort_port]
  split
  · exact own
  · exact h q

theorem State.NoticesBounded.modifyPort (h : s.NoticesBounded) {f : PortState → PortState}
    (own : (f (s.port p)).NoticesBounded) : (s.modifyPort p f).NoticesBounded := fun q => by
  rw [State.modifyPort_port]
  split
  · exact own
  · exact h q

/-! ### Effects of presence (R136 to R139) -/

theorem State.lateEffects_tellsPorts (s : State) (p : Port) (reason : Reason) :
    s.TellsPorts (s.lateEffects p reason) := by
  unfold State.lateEffects
  split_ifs
  · exact (s.modifyCar_tellsPorts p _).trans (State.notifyRace_only _ _).tellsPorts
  · exact .refl s
  · exact s.holdTest_tellsPorts
  · exact .refl s

theorem State.returnEffects_tellsPorts (s : State) (p : Port) : s.TellsPorts (s.returnEffects p) := by
  unfold State.returnEffects
  split_ifs
  · exact (s.modifyCar_tellsPorts p _).trans (State.notifyRace_only _ _).tellsPorts
  · exact .refl s
  · exact s.holdTest_tellsPorts
  · exact .refl s

theorem State.lostEffects_leavesPorts (s : State) (p : Port) : s.LeavesPorts (s.lostEffects p) := by
  unfold State.lostEffects
  cases phase : s.race.phase with
  | idle => exact .refl s
  | forming | grid | countdown =>
    dsimp only
    split
    · exact State.withdrawAndTest_leavesPorts (by rw [phase]; decide) p _
    · exact .refl s
  | green | finishing =>
    dsimp only
    split
    · exact State.retire_leavesPorts (by rw [phase]; decide) p _
    · exact .refl s
  | results =>
    dsimp only
    split
    · exact State.release_leavesPorts (by rw [phase]; decide) p
    · exact .refl s

theorem State.PortsSound.lateEffects (h : s.PortsSound) (p : Port) (reason : Reason) :
    (s.lateEffects p reason).PortsSound :=
  h.told (s.lateEffects_tellsPorts p reason) (h.noticesBounded.lateEffects p reason)

theorem State.PortsSound.returnEffects (h : s.PortsSound) (p : Port) : (s.returnEffects p).PortsSound :=
  h.told (s.returnEffects_tellsPorts p) (h.noticesBounded.returnEffects p)

theorem State.PortsSound.lostEffects (h : s.PortsSound) (p : Port) : (s.lostEffects p).PortsSound := by
  refine h.left (s.lostEffects_leavesPorts p) (fun idle => ?_) (h.noticesBounded.lostEffects p)
  unfold State.lostEffects
  rw [idle]
  exact idle

theorem State.PortsSound.goLate (h : s.PortsSound) (p : Port) (reason : Reason) : (s.goLate p reason).PortsSound :=
  State.PortsSound.lateEffects (h.modifyPort (h p).wentLate) p reason

theorem State.PortsSound.becomeLost (h : s.PortsSound) (p : Port) : (s.becomeLost p).PortsSound :=
  State.PortsSound.lostEffects (h.modifyPort (h p).wentLost) p

/-! ### Major errors and the loss of a link (R140 to R143, R171, R179) -/

/-- Every port is sound but one, whose supervision and notices are. The eighth bad check leaves its port so, until
its link has gone DOWN (R171). -/
structure State.SoundBut (p : Port) (s : State) : Prop where
  others : ∀ q : Port, q ≠ p → (s.port q).Sound s.race.phase
  own : (s.port p).Supervised
  notices : s.NoticesBounded

theorem State.PortsSound.soundBut (h : s.PortsSound) (p : Port) : s.SoundBut p :=
  ⟨fun q _ => h q, (h p).supervised, h.noticesBounded⟩

theorem State.SoundBut.portsSound (h : s.SoundBut p) (own : (s.port p).Sound s.race.phase) : s.PortsSound := fun q => by
  by_cases e : q = p
  · rw [e]
    exact own
  · exact h.others q e

theorem State.SoundBut.told (h : s.SoundBut p) (k : s.TellsPorts t) (bounded : t.NoticesBounded) :
    t.SoundBut p where
  others := fun q other => by
    refine (h.others q other).told (k.ports q).andPush (bounded q) ?_
    rw [k.pushTimer q]
    exact ((h.others q other).of_idle k.idle).push
  own := h.own.told (k.ports p).andPush
  notices := bounded

theorem State.SoundBut.modifyPort (h : s.SoundBut p) {f : PortState → PortState} (own : (f (s.port p)).Supervised)
    (bounded : (f (s.port p)).NoticesBounded) : (s.modifyPort p f).SoundBut p where
  others := fun q other => by
    rw [State.modifyPort_port_ne _ _ other]
    exact h.others q other
  own := by
    rw [State.modifyPort_port_self]
    exact own
  notices := h.notices.modifyPort bounded

/-- A change that leaves the link and the notices of the port. -/
theorem State.SoundBut.resupervise (h : s.SoundBut p) {f : PortState → PortState} (own : (f (s.port p)).Supervised)
    (same : (s.port p).SameNotices (f (s.port p))) (link : (f (s.port p)).link = (s.port p).link) :
    (s.modifyPort p f).SoundBut p := by
  obtain ⟨notices, overflowFull, downEmpty⟩ := h.notices p
  refine h.modifyPort own ⟨?_, ?_, ?_⟩
  · rw [same.1]; exact notices
  · rw [same.1, same.2]; exact overflowFull
  · rw [same.1, same.2, link]; exact downEmpty

theorem State.SoundBut.goLate (h : s.SoundBut p) (reason : Reason) : (s.goLate p reason).SoundBut p := by
  have late : (s.modifyPort p PortState.wentLate).SoundBut p := h.resupervise h.own.wentLate ⟨rfl, rfl⟩ rfl
  exact late.told (State.lateEffects_tellsPorts _ p reason) (late.notices.lateEffects p reason)

/-- The third major error fences a port that has been heard, which is LATE or LOST from then on (R142, R143). -/
theorem State.SoundBut.fence (h : s.SoundBut p) (heard : (s.port p).presence ≠ .absent)
    (multiple : (s.port p).errorRecord.map ErrorRecord.multiple = some true) : (s.fence p).SoundBut p := by
  unfold State.fence
  cases presence : (s.port p).presence with
  | present | lost =>
    dsimp only
    unfold State.goLate
    rw [State.modifyPort_modifyPort]
    have late : (s.modifyPort p fun c => { c with
        fenced := true, presence := .late, silence := .second secondStageLength }).SoundBut p :=
      h.resupervise ⟨nofun, nofun, rfl, fun _ => .inl rfl, fun _ => multiple⟩ ⟨rfl, rfl⟩ rfl
    exact late.told (State.lateEffects_tellsPorts _ p _) (late.notices.lateEffects p _)
  | late =>
    exact h.resupervise ⟨h.own.presentUp, h.own.absentDown, h.own.silence, fun _ => .inl presence, fun _ => multiple⟩
      ⟨rfl, rfl⟩ rfl
  | absent => exact absurd presence heard

theorem State.SoundBut.majorError (h : s.SoundBut p) (up : (s.port p).link = .up) (kind : ErrorKind)
    (requestKind : Option Byte) : (s.majorError p kind requestKind).SoundBut p := by
  obtain ⟨presentUp, absentDown, silence, fencedAway, fencedRecord⟩ := h.own
  cases held : (s.port p).errorRecord with
  | none =>
    have free : (s.port p).fenced ≠ true := fun fenced => by
      have record := fencedRecord fenced
      rw [held] at record
      cases record
    have recorded : (s.modifyPort p fun c =>
        { c with errorRecord := some ⟨kind, requestKind, s.raceClock, false⟩ }).SoundBut p :=
      h.resupervise ⟨presentUp, absentDown, silence, fencedAway, fun fenced => absurd fenced free⟩ ⟨rfl, rfl⟩ rfl
    have told := recorded.told (State.notifyOwn_only p (.error kind) _).tellsPorts (recorded.notices.notifyOwn p _)
    unfold State.majorError
    rw [held]
    exact told
  | some record =>
    cases multiple : record.multiple with
    | false =>
      rw [State.majorError_second kind requestKind held multiple]
      exact h.resupervise ⟨presentUp, absentDown, silence, fencedAway, fun _ => rfl⟩ ⟨rfl, rfl⟩ rfl
    | true =>
      cases fenced : (s.port p).fenced with
      | true =>
        rw [State.majorError_fenced kind requestKind held multiple fenced]
        exact h
      | false =>
        rw [State.majorError_third kind requestKind held multiple fenced]
        exact h.fence (h.own.heard up) (by rw [held]; exact congrArg some multiple)

/-- Whether the phase is IDLE is kept on the links. -/
theorem State.idle_keptByPorts (idle : Prop) : State.KeptByPorts fun u => u.race.phase = .idle ↔ idle where
  same := fun same h => by
    rw [same.race]
    exact h
  late := fun p reason h => (State.lateEffects_tellsPorts _ p reason).idle.trans h
  returned := fun p h => (State.returnEffects_tellsPorts _ p).idle.trans h

theorem State.PortsSound.majorError (h : s.PortsSound) (up : (s.port p).link = .up) (kind : ErrorKind)
    (requestKind : Option Byte) : (s.majorError p kind requestKind).PortsSound := by
  have reported := (h.soundBut p).majorError up kind requestKind
  have own := (h p).resupervised (s.majorError_own p kind requestKind) reported.own (reported.notices p)
  exact reported.portsSound (own.of_idle ((State.idle_keptByPorts _).majorError Iff.rfl p kind requestKind))

theorem State.PortsSound.reportReserved (h : s.PortsSound) (up : (s.port p).link = .up) (r : Request) :
    (s.reportReserved p r).PortsSound := by
  unfold State.reportReserved
  split
  · exact h.majorError up _ _
  · exact h

/-- A link that goes DOWN makes its port sound again. -/
theorem State.SoundBut.linkDown (h : s.SoundBut p) : (s.linkDown p).PortsSound := by
  have changed {f : PortState → PortState} (own : (f (s.port p)).Sound s.race.phase) :
      (s.modifyPort p f).PortsSound :=
    State.SoundBut.portsSound (h.modifyPort own.supervised own.noticesBounded)
      (by rw [State.modifyPort_port_self]; exact own)
  unfold State.linkDown
  dsimp only
  split
  · unfold State.goLate
    rw [State.modifyPort_modifyPort]
    exact (changed (h.own.wentLate.dropped nofun)).lateEffects p _
  · next away => exact changed (h.own.dropped away)

theorem State.PortsSound.badLengthFrame (h : s.PortsSound) (p : Port) : (s.badLengthFrame p).PortsSound := by
  unfold State.badLengthFrame
  split
  · next up => exact h.majorError up _ _
  · exact h

theorem State.PortsSound.badCheckFrame (h : s.PortsSound) (p : Port) : (s.badCheckFrame p).PortsSound := by
  unfold State.badCheckFrame
  split
  · exact h
  · next up =>
    have counted : (s.modifyPort p fun c => { c with badChecks := c.badChecks + 1 }).SoundBut p :=
      (h.soundBut p).resupervise ⟨(h p).presentUp, (h p).absentDown, (h p).silence, (h p).fencedAway,
        (h p).fencedRecord⟩ ⟨rfl, rfl⟩ rfl
    have linked : ((s.modifyPort p fun c => { c with badChecks := c.badChecks + 1 }).port p).link = .up := by
      rw [State.modifyPort_port_self]
      exact up
    dsimp only
    split
    · exact (counted.majorError linked _ _).linkDown
    · next few =>
      refine State.PortsSound.majorError (counted.portsSound ?_) linked _ _
      rw [State.modifyPort_port_self]
      exact { h p with
        badChecks := Nat.not_le.mp few
        downEmpty := fun down => absurd (up.symm.trans down) nofun }

theorem State.PortsSound.lossOfSignal (h : s.PortsSound) (p : Port) : (s.lossOfSignal p).PortsSound := by
  unfold State.lossOfSignal
  split
  · exact (h.soundBut p).linkDown
  · exact h.modifyPort { h p with downEmpty := (h p).downEmpty }

/-! ### What a port answers itself (R63, R176) -/

/-- What a request performs keeps the ports sound, and leaves the responses and the link of its own port. -/
structure State.PerformsSoundly (p : Port) (s t : State) : Prop where
  sound : t.PortsSound
  responses : (t.port p).responseQueue = (s.port p).responseQueue
  link : (t.port p).link = (s.port p).link

theorem State.PortsSound.performsNothing (h : s.PortsSound) (p : Port) : s.PerformsSoundly p s := ⟨h, rfl, rfl⟩

/-- Between the two ends of a grant or an answer the performance finds sound ports and an UP link, and leaves room
for its response (R61, R176). -/
theorem State.PortsSound.performed (h : s.PortsSound) {x : Queued} (head : (s.port p).requestQueue.head? = some x)
    (room : (s.port p).responseQueue.length < responseCapacity) (response : Response)
    (keeps : (s.requestTaken p).PortsSound → ((s.requestTaken p).port p).link = .up →
      (s.requestTaken p).PerformsSoundly p t) :
    (t.modifyPort p fun c => c.respond response).PortsSound ∧
      ((t.modifyPort p fun c => c.respond response).port p).link = .up := by
  have taken : (s.requestTaken p).PortsSound := h.modifyPort (h p).dropRequest
  have own : (s.requestTaken p).port p = (s.port p).dropRequest := s.modifyPort_port_self p _
  have up : ((s.requestTaken p).port p).link = .up := by
    rw [own]
    exact (h p).up_of_head head
  obtain ⟨sound, responses, link⟩ := keeps taken up
  have linked : (t.port p).link = .up := link.trans up
  refine ⟨sound.modifyPort ((sound p).respond response linked ?_), ?_⟩
  · rw [responses, own]
    exact room
  · rw [State.modifyPort_port_self]
    exact linked

/-- An answer at the head of a queue keeps the ports sound where its performance does, and is given on an UP link. -/
theorem State.PortsSound.answer {kind : RequestKind} {perform : Request → State → State × Response} (h : s.PortsSound)
    (keeps : ∀ (r : Request) (u : State), u.PortsSound → (u.port p).link = .up →
      u.PerformsSoundly p (perform r u).1) :
    (s.answer p kind perform).PortsSound ∧
      ∀ r : Request, s.localRequest p kind = some r → ((s.answer p kind perform).port p).link = .up := by
  cases asked : s.localRequest p kind with
  | none =>
    rw [State.answer_none asked]
    exact ⟨h, nofun⟩
  | some r =>
    obtain ⟨-, head, room⟩ := State.localRequest_spec asked
    obtain ⟨sound, up⟩ := h.performed head room (perform r (s.requestTaken p)).2 (keeps r _)
    rw [State.answer_some asked]
    exact ⟨sound, fun _ _ => up⟩

theorem State.PortsSound.answerIdentify (h : s.PortsSound) (p : Port) : (s.answerIdentify p).PortsSound :=
  (h.answer fun r u sound _ => by
    rw [performIdentify_state]
    exact sound.performsNothing p).1

theorem State.PortsSound.answerNop (h : s.PortsSound) (p : Port) : (s.answerNop p).PortsSound :=
  (h.answer fun r u sound _ => by
    rw [performNop_state]
    exact sound.performsNothing p).1

theorem performSetPush_performsSoundly (h : s.PortsSound) (up : (s.port p).link = .up) (r : Request) :
    s.PerformsSoundly p (performSetPush p r s).1 := by
  unfold performSetPush
  dsimp only
  split
  · exact h.performsNothing p
  split
  · exact h.performsNothing p
  · next range =>
    refine ⟨h.modifyPort ((h p).setPush up (by simpa using range)), ?_, ?_⟩ <;> rw [State.modifyPort_port_self]

theorem State.PortsSound.answerSetPush (h : s.PortsSound) (p : Port) : (s.answerSetPush p).PortsSound := by
  unfold State.answerSetPush
  split
  · exact h
  · next r asked =>
    obtain ⟨sound, up⟩ := h.answer (p := p) (kind := .setPush) fun r _ sound up =>
      performSetPush_performsSoundly sound up r
    exact sound.reportReserved (up r asked) r

theorem State.PortsSound.clearErrors (h : s.PortsSound) (up : (s.port p).link = .up) :
    s.PerformsSoundly p (s.clearErrors p) := by
  have restored : (s.modifyPort p PortState.restored).PortsSound := h.modifyPort ((h p).restored up)
  by_cases nothing : (s.port p).errorRecord = none ∧ (s.port p).fenced = false ∧ (s.port p).presence = .present
  · obtain ⟨empty, free, present⟩ := nothing
    rw [State.clearErrors_nothing empty free present]
    exact h.performsNothing p
  · rw [State.clearErrors_something (by simpa only [not_and_or, Bool.not_eq_false] using nothing)]
    split
    · have own := State.returnEffects_ports (s.modifyPort p PortState.restored) p p
      rw [State.modifyPort_port_self] at own
      refine ⟨restored.returnEffects p, ?_, ?_⟩ <;> rw [own] <;> rfl
    · refine ⟨restored, ?_, ?_⟩ <;> rw [State.modifyPort_port_self] <;> rfl

theorem State.PortsSound.answerClearErrors (h : s.PortsSound) (p : Port) : (s.answerClearErrors p).PortsSound :=
  (h.answer fun _ _ sound up => sound.clearErrors up).1

/-- What stands at the head of a queue waits there, with room for its answer (R176). -/
theorem PortState.head_spec {c : PortState} {x : Queued} (head : c.head = some x) :
    c.requestQueue.head? = some x ∧ c.responseQueue.length < responseCapacity := by
  unfold PortState.head at head
  split at head
  · next room => exact ⟨head, room⟩
  · cases head

theorem State.PortsSound.answerUnknown (h : s.PortsSound) (p : Port) : (s.answerUnknown p).PortsSound := by
  unfold State.answerUnknown
  split
  · next head =>
    obtain ⟨waits, room⟩ := PortState.head_spec head
    exact h.modifyPort ((h p).dropRequest.respond _ ((h p).up_of_head waits) room)
  · exact h
  · exact h

theorem State.PortsSound.answerHead (h : s.PortsSound) (p : Port) : (s.answerHead p).PortsSound := by
  unfold State.answerHead
  split
  · exact h
  · exact h.answerUnknown p
  · split
    · exact h.answerIdentify p
    · exact h.answerNop p
    · exact h.answerSetPush p
    · exact h.answerClearErrors p
    all_goals exact h

/-! ### Frames (R174, R175) -/

/-- A frame that arrives brings the link UP, and makes a port that is not fenced PRESENT (R131, R171). -/
theorem State.PortsSound.frameArrives (h : s.PortsSound) (p : Port) :
    (s.frameArrives p).PortsSound ∧ ((s.frameArrives p).port p).link = .up := by
  obtain ⟨-, presence, silence, own⟩ := s.frameArrives_own p
  refine ⟨?_, by rw [own]⟩
  have arrived := s.frameArrives_spec p
  cases fenced : (s.port p).fenced with
  | true =>
    rw [arrived.fenced fenced]
    exact h.modifyPort ((h p).heardFenced fenced)
  | false =>
    have heard : (s.modifyPort p fun c =>
        { c with link := .up, badChecks := 0, presence := .present, silence := .first 250 }).PortsSound :=
      h.modifyPort ((h p).heard fenced)
    by_cases late : (s.port p).presence = .late
    · rw [State.frameArrives_returns fenced late]
      exact heard.returnEffects p
    · rw [arrived.heard fenced late]
      exact heard

theorem State.PortsSound.sortFrame (h : s.PortsSound) (up : (s.port p).link = .up) (kind : Byte)
    (payload : List Byte) : (s.sortFrame p kind payload).PortsSound := by
  have accepted : (s.modifyPort p (PortState.accept kind payload s.tickCount)).PortsSound :=
    h.modifyPort ((h p).accept kind payload s.tickCount up)
  unfold State.sortFrame
  split
  · split
    · exact accepted
    · exact h.majorError up _ _
  · refine accepted.majorError ?_ _ _
    rw [State.modifyPort_port_self, PortState.accept_same]
    exact up

theorem State.PortsSound.validFrame (h : s.PortsSound) (p : Port) (kind : Byte) (payload : List Byte) :
    (s.validFrame p kind payload).PortsSound := by
  obtain ⟨arrived, up⟩ := h.frameArrives p
  have sorted := arrived.sortFrame up kind payload
  unfold State.validFrame
  dsimp only
  split
  · exact sorted.answerHead p
  · exact sorted

end

end Sys2Proof.Machine
end

section
/-! PROOF. Every command keeps the ports sound: the race requests, the expiries and the tick, and with them every step
(R143, R156, R162, R171, R175, R176, R179). -/
namespace Sys2Proof.Machine

section
variable {s : State} {p : Port}

/-! ### The race requests (R61, R156) -/

/-- The opening of a race starts the push timers (R21, R156). -/
theorem State.PortsSound.openRace (h : s.PortsSound) (idle : s.race.phase = .idle) (p : Port) :
    (s.openRace p).PortsSound := by
  have entered : ((s.opened p).appendEntry p).PortsSound := fun q => by
    have port : ((s.opened p).appendEntry p).port q = (s.port q).startPush := s.opened_port p q
    have sound := h q
    rw [idle] at sound
    rw [port]
    exact sound.startPush (by simp [State.opened])
  have told := (State.notifyPhase_only (.changed .forming .none) ((s.opened p).appendEntry p)).trans
    (State.notifyRace_only (.entry p .entered .none (((s.opened p).appendEntry p).entryPosition p)) _)
  exact entered.told told.tellsPorts (h.noticesBounded.openRace p)

/-- A race request offers notices, and may return the race to IDLE; OPEN_RACE alone has it leave IDLE. -/
theorem RequestKind.perform_leavesPorts {k : RequestKind} (race : k.portLocal = false) (p : Port) (r : Request)
    (s : State) : s.LeavesPorts (k.perform p r s).1 := by
  cases k with
  | identify | nop | setPush | clearErrors => cases race
  | openRace => exact performOpenRace_leavesPorts p r s
  | setRules => exact (performSetRules_tellsPorts p r s).leaves
  | loadCourse => exact performLoadCourse_leavesPorts p r s
  | enter => exact performEnter_leavesPorts p r s
  | carSetup => exact performCarSetup_leavesPorts p r s
  | closeEntries => exact performCloseEntries_leavesPorts p r s
  | ready => exact performReady_leavesPorts p r s
  | leave => exact performLeave_leavesPorts p r s
  | report => exact performReport_leavesPorts p r s
  | clearFlags => exact performClearFlags_leavesPorts p r s
  | snapshot =>
    show s.LeavesPorts (performSnapshot p r s).1
    rw [performSnapshot_state]
    exact .refl s
  | readLaps =>
    show s.LeavesPorts (performReadLaps p r s).1
    rw [performReadLaps_state]
    exact .refl s
  | readResults =>
    show s.LeavesPorts (performReadResults p r s).1
    rw [performReadResults_state]
    exact .refl s
  | abortVote => exact performAbortVote_leavesPorts p r s
  | withdrawVote => exact performWithdrawVote_leavesPorts p r s

theorem State.PortsSound.perform (h : s.PortsSound) {k : RequestKind} (race : k.portLocal = false) (p : Port)
    (r : Request) : (k.perform p r s).1.PortsSound := by
  by_cases idle : s.race.phase = .idle
  · cases fenced : (s.port p).fenced with
    | true =>
      rw [RequestKind.perform_fenced r (fun clears => by rw [clears] at race; cases race) fenced]
      exact h
    | false =>
      by_cases opens : k = .openRace
      · subst opens
        show (performOpenRace p r s).1.PortsSound
        rw [performOpenRace_accepted fenced idle]
        exact h.openRace idle p
      by_cases reads : k = .snapshot
      · subst reads
        show (performSnapshot p r s).1.PortsSound
        rw [performSnapshot_state]
        exact h
      · rw [RequestKind.perform_idle r fenced idle race opens reads]
        exact h
  · exact h.followed idle (RequestKind.perform_leavesPorts race p r s) (h.noticesBounded.perform race p r)

/-- A grant keeps the ports sound, and is given on an UP link. -/
theorem State.PortsSound.grant (h : s.PortsSound) {k : RequestKind} (race : k.portLocal = false) (p : Port) :
    (s.grant p k (k.perform p)).PortsSound ∧
      ∀ r : Request, s.granted p k = some r → ((s.grant p k (k.perform p)).port p).link = .up := by
  cases waits : s.granted p k with
  | none =>
    rw [State.grant_none waits]
    exact ⟨h, nofun⟩
  | some r =>
    obtain ⟨-, -, -, head, room⟩ := State.granted_spec waits
    obtain ⟨sound, up⟩ := h.performed (t := (k.perform p r (s.requestTaken p)).1) head room
      (k.perform p r (s.requestTaken p)).2 fun taken _ => by
        have leaves := RequestKind.perform_leavesPorts race p r (s.requestTaken p)
        exact ⟨taken.perform race p r, by rw [leaves.ports p], by rw [leaves.ports p]⟩
    rw [State.grant_some waits]
    exact ⟨sound, fun _ _ => up⟩

/-! ### The expiries (R17) -/

theorem State.PortsSound.entryWindowExpiry (h : s.PortsSound) : s.entryWindowExpiry.PortsSound := by
  refine h.left s.entryWindowExpiry_leavesPorts (fun idle => ?_) h.noticesBounded.entryWindowExpiry
  unfold State.entryWindowExpiry
  split
  · next due => exact absurd (idle.symm.trans (State.entryWindowDue_forming due)) nofun
  · exact idle

theorem State.PortsSound.gridWaitExpiry (h : s.PortsSound) : s.gridWaitExpiry.PortsSound := by
  have bounded := h.noticesBounded.gridWaitExpiry
  unfold State.gridWaitExpiry at bounded ⊢
  split
  · next due =>
    have grid : s.race.phase ≠ .idle := by
      rw [due.1]
      decide
    have left := s.withdrawEach_tellsPorts .readyMissed s.enteredPorts
    have started := left.started grid
    rw [if_pos due] at bounded
    refine h.followed grid (left.followed ?_) bounded
    dsimp only
    split
    · exact State.returnToIdle_leavesPorts started _
    · exact (State.enterCountdown_tellsPorts started).leaves
  · exact h

theorem State.enterGreen_tellsPorts (started : s.race.phase ≠ .idle) : s.TellsPorts s.enterGreen := by
  unfold State.enterGreen
  refine State.TellsPorts.trans ?_ (State.notifyPhase_only _ _).tellsPorts
  exact ⟨fun _ => rfl, iff_of_false nofun started, rfl, rfl⟩

theorem State.PortsSound.countdownExpiry (h : s.PortsSound) : s.countdownExpiry.PortsSound := by
  refine h.told ?_ h.noticesBounded.countdownExpiry
  unfold State.countdownExpiry
  split
  · next due => exact State.enterGreen_tellsPorts (by rw [due.1]; decide)
  · exact .refl s

theorem State.PortsSound.enterResults (h : s.PortsSound) (started : s.race.phase ≠ .idle) (reason : Reason) :
    (s.enterResults reason).PortsSound :=
  h.followed started (State.enterResults_leavesPorts started reason) (h.noticesBounded.enterResults reason)

theorem State.PortsSound.closingWindowExpiry (h : s.PortsSound) : s.closingWindowExpiry.PortsSound := by
  unfold State.closingWindowExpiry
  split
  · next due => exact h.enterResults (by rw [due.1]; decide) _
  · exact h

theorem State.PortsSound.resultsHoldExpiry (h : s.PortsSound) : s.resultsHoldExpiry.PortsSound := by
  unfold State.resultsHoldExpiry
  split
  · next due =>
    have started : s.race.phase ≠ .idle := by
      rw [due.1]
      decide
    exact h.followed started (State.returnToIdle_leavesPorts started _) (h.noticesBounded.returnToIdle _)
  · exact h

theorem State.PortsSound.voteExpiry (h : s.PortsSound) (p : Port) : (s.voteExpiry p).PortsSound := by
  have dropped : s.TellsPorts (s.dropVote p) := State.modifyRace_tellsPorts Iff.rfl
  refine h.told ?_ (h.noticesBounded.voteExpiry p)
  unfold State.voteExpiry
  split
  · exact dropped.trans (State.notifyVotes_only _).tellsPorts
  · exact .refl s

theorem State.PortsSound.silenceFirstStageExpiry (h : s.PortsSound) (p : Port) :
    (s.silenceFirstStageExpiry p).PortsSound := by
  unfold State.silenceFirstStageExpiry
  split
  · exact h.goLate p _
  · exact h

theorem State.PortsSound.silenceSecondStageExpiry (h : s.PortsSound) (p : Port) :
    (s.silenceSecondStageExpiry p).PortsSound := by
  unfold State.silenceSecondStageExpiry
  split
  · exact h.becomeLost p
  · exact h

theorem State.PortsSound.pushTimerExpiry (h : s.PortsSound) (p : Port) : (s.pushTimerExpiry p).PortsSound := by
  unfold State.pushTimerExpiry
  split
  · next expired => exact h.modifyPort ((h p).pushExpired _ expired)
  · exact h

/-! ### The tick (R17, R35, R147) -/

/-- What each port's expiry keeps, the expiries of all ports keep. -/
theorem State.PortsSound.foldl {expiry : State → Port → State} (h : s.PortsSound)
    (keeps : ∀ (u : State) (p : Port), u.PortsSound → (expiry u p).PortsSound) (ports : List Port) :
    (ports.foldl expiry s).PortsSound :=
  List.foldlRecOn ports expiry h fun u sound p _ => keeps u p sound

theorem State.PortsSound.takeDue (h : s.PortsSound) : s.takeDue.PortsSound := by
  have timers := h.entryWindowExpiry.gridWaitExpiry.countdownExpiry.closingWindowExpiry.resultsHoldExpiry
  have votes := timers.foldl (fun _ p sound => sound.voteExpiry p) allPorts
  have first := votes.foldl (fun _ p sound => sound.silenceFirstStageExpiry p) allPorts
  have second := first.foldl (fun _ p sound => sound.silenceSecondStageExpiry p) allPorts
  exact second.foldl (fun _ p sound => sound.pushTimerExpiry p) allPorts

theorem State.PortsSound.countTick (h : s.PortsSound) : s.countTick.PortsSound := fun q => by
  rw [State.countTick_port]
  exact (h q).tick

theorem State.PortsSound.limitTick (h : s.PortsSound) (limit : s.atLimit = true) : s.limitTick.PortsSound :=
  h.countTick.enterResults (Phase.ne_idle_of_running (Bool.and_eq_true_iff.mp limit).1) _

theorem State.PortsSound.tick (h : s.PortsSound) : s.tick.PortsSound := by
  unfold State.tick
  split
  · next limit => exact h.takeDue.limitTick limit
  · exact h.takeDue.countTick

end

/-! ### Every command -/

/-- The ports are sound after a hardware reset (R182). -/
theorem State.reset_portsSound : State.reset.PortsSound := fun q => by
  have port : State.reset.port q = .reset := Bank.get_fill _ q
  rw [port]
  exact {
    requests := Nat.zero_le _
    responses := Nat.zero_le _
    notices := Nat.zero_le _
    overflowFull := nofun
    badChecks := Nat.zero_lt_succ _
    downEmpty := fun _ => ⟨rfl, rfl, rfl, rfl, rfl, rfl, rfl, rfl⟩
    presentUp := nofun
    absentDown := fun _ => rfl
    silence := rfl
    fencedAway := nofun
    fencedRecord := nofun
    push := ⟨nofun, fun ⟨runs, _⟩ => absurd rfl runs⟩
    interval := rfl }

/-- Every command keeps the ports sound. -/
theorem exec_portsSound (command : Instr) {s : State} (h : s.PortsSound) :
    ∃ t : State, exec command s = .next t ∧ t.PortsSound := by
  cases command with
  | openRace p => exact ⟨_, rfl, (h.grant (k := .openRace) rfl p).1⟩
  | setRules p =>
    obtain ⟨done, -⟩ := h.grant (k := .setRules) rfl p
    refine ⟨_, rfl, ?_⟩
    split
    · exact h
    · split
      · exact done.entryWindowExpiry
      · exact done
  | loadCourse p => exact ⟨_, rfl, (h.grant (k := .loadCourse) rfl p).1⟩
  | enter p => exact ⟨_, rfl, (h.grant (k := .enter) rfl p).1⟩
  | carSetup p =>
    obtain ⟨done, up⟩ := h.grant (k := .carSetup) rfl p
    refine ⟨_, rfl, ?_⟩
    split
    · exact h
    · next r granted => exact done.reportReserved (up r granted) r
  | closeEntries p => exact ⟨_, rfl, (h.grant (k := .closeEntries) rfl p).1⟩
  | ready p => exact ⟨_, rfl, (h.grant (k := .ready) rfl p).1⟩
  | leave p => exact ⟨_, rfl, (h.grant (k := .leave) rfl p).1⟩
  | report p => exact ⟨_, rfl, (h.grant (k := .report) rfl p).1⟩
  | clearFlags p => exact ⟨_, rfl, (h.grant (k := .clearFlags) rfl p).1⟩
  | snapshot p => exact ⟨_, rfl, (h.grant (k := .snapshot) rfl p).1⟩
  | readLaps p => exact ⟨_, rfl, (h.grant (k := .readLaps) rfl p).1⟩
  | readResults p => exact ⟨_, rfl, (h.grant (k := .readResults) rfl p).1⟩
  | abortVote p => exact ⟨_, rfl, (h.grant (k := .abortVote) rfl p).1⟩
  | withdrawVote p => exact ⟨_, rfl, (h.grant (k := .withdrawVote) rfl p).1⟩
  | identify p => exact ⟨_, rfl, h.answerIdentify p⟩
  | nop p => exact ⟨_, rfl, h.answerNop p⟩
  | setPush p => exact ⟨_, rfl, h.answerSetPush p⟩
  | clearErrors p => exact ⟨_, rfl, h.answerClearErrors p⟩
  | unknownFrameAnswer p => exact ⟨_, rfl, h.answerUnknown p⟩
  | validFrame p kind payload =>
    refine ⟨_, rfl, ?_⟩
    split
    · exact h.validFrame p kind payload
    · exact h.badLengthFrame p
  | badCheckFrame p => exact ⟨_, rfl, h.badCheckFrame p⟩
  | badLengthFrame p => exact ⟨_, rfl, h.badLengthFrame p⟩
  | resynchronisingCandidateDiscard p => exact ⟨_, rfl, h⟩
  | lossOfSignal p => exact ⟨_, rfl, h.lossOfSignal p⟩
  | hardwareReset => exact ⟨_, rfl, State.reset_portsSound⟩
  | entryWindowExpiry => exact ⟨_, rfl, h.entryWindowExpiry⟩
  | gridWaitExpiry => exact ⟨_, rfl, h.gridWaitExpiry⟩
  | countdownExpiry => exact ⟨_, rfl, h.countdownExpiry⟩
  | closingWindowExpiry => exact ⟨_, rfl, h.closingWindowExpiry⟩
  | raceLimit =>
    refine ⟨_, rfl, ?_⟩
    split
    · next limit => exact h.takeDue.limitTick limit
    · exact h
  | resultsHoldExpiry => exact ⟨_, rfl, h.resultsHoldExpiry⟩
  | voteExpiry p => exact ⟨_, rfl, h.voteExpiry p⟩
  | silenceFirstStageExpiry p => exact ⟨_, rfl, h.silenceFirstStageExpiry p⟩
  | silenceSecondStageExpiry p => exact ⟨_, rfl, h.silenceSecondStageExpiry p⟩
  | pushTimerExpiry p => exact ⟨_, rfl, h.pushTimerExpiry p⟩
  | transmitTake p => exact ⟨_, rfl, h.modifyPort (h p).transmitTake⟩
  | tick => exact ⟨_, rfl, h.tick⟩

/-- Settles O5: the command at the front of the queue keeps the ports sound, and so does an idle step. -/
theorem stepKeepsPortsSound : Obligations.StepKeepsPortsSound := by
  intro s t h stepped
  unfold step at stepped
  split at stepped
  · obtain rfl := Host.Outcome.next.inj stepped
    exact h
  · next command rest _ =>
    obtain ⟨u, performed, sound⟩ := exec_portsSound command (s := { s with pending := rest }) h
    obtain rfl := Host.Outcome.next.inj (performed.symm.trans stepped)
    exact sound

end Sys2Proof.Machine
end

section
/-! PROOF. The machine as a whole: its step (log 2) and its state after a hardware reset (R182). -/
namespace Sys2Proof.Machine

/-- Settles O1: the queue's rest is what the command is performed on. -/
theorem stepPerformsFrontCommand : Obligations.StepPerformsFrontCommand :=
  ⟨fun _ _ _ => rfl, fun _ => rfl⟩

theorem State.reset_port (p : Port) : State.reset.port p = .reset := Bank.get_fill _ p

/-- Settles O3: the state after the reset is `State.reset` with the waiting commands. -/
theorem hardwareResetSetsResetValues : Obligations.HardwareResetSetsResetValues := by
  intro s
  let t : State := { State.reset with pending := s.pending }
  have port (p : Port) : t.port p = .reset := State.reset_port p
  refine ⟨t, rfl, rfl, fun p => ?_, rfl, rfl, rfl, rfl, rfl, rfl, rfl, rfl, rfl, rfl, rfl,
    fun p => ⟨Bank.get_fill _ p, Bank.get_fill _ p, Bank.get_fill _ p⟩, rfl, rfl, rfl, rfl, rfl, rfl, rfl⟩
  rw [port]
  exact ⟨rfl, rfl, rfl, rfl, rfl, rfl, rfl, rfl, rfl, rfl, rfl, rfl, rfl, rfl⟩

/-- Settles O4: each of the five invariants begins at the reset. -/
theorem resetIsSound : Obligations.ResetIsSound :=
  ⟨State.reset_portsSound, State.reset_raceSound, State.reset_holdSound, State.reset_orderSound,
    State.reset_distancesSound⟩

end Sys2Proof.Machine
end

section
/-! PROOF. The receiver of a port (R172, R173; log 10): one byte is searched as the rules state it, and from there the
bytes of a frame, of a LEN above 240, and of a frame with an incorrect check. -/
namespace Sys2Proof.Machine

/-! ### Searches that come to their end (R172, R173) -/

section
variable {p : Port}

/-- Bytes without a SYNC are all passed over, whichever first ones of them are discarded ones. -/
theorem Receiver.Searched.pass_all {bytes : List Byte} {discarded : Nat} (none : 0xC3 ∉ bytes)
    (covered : discarded ≤ bytes.length) : Receiver.Searched p ⟨bytes, discarded⟩ ⟨[], 0⟩ [] := by
  have passed : Receiver.Searched p ⟨[], discarded - bytes.length⟩ ⟨[], 0⟩ [] := by
    rw [Nat.sub_eq_zero_of_le covered]
    exact .hunts 0
  have searched := Receiver.Searched.pass bytes none passed
  rwa [List.append_nil] at searched

/-- A LEN above 240 is no SYNC, so the search ends behind it with the one error. -/
theorem Receiver.Searched.long_alone {len : Byte} (long : 240 < len.toNat) :
    Receiver.Searched p ⟨[0xC3, len], 0⟩ ⟨[], 0⟩ [.badLengthFrame p] := by
  have other : (0xC3 : Byte) ∉ [len] := by
    rw [List.mem_singleton]
    rintro rfl
    exact absurd long (by decide)
  exact .longLength long (.pass_all other le_rfl)

/-- A candidate with an incorrect check is one error, and the search goes on in the bytes behind its SYNC, which all
are discarded ones. -/
theorem Receiver.Searched.wrong_alone {len kind x y : Byte} {payload : List Byte} {found : List Instr}
    (length : payload.length = len.toNat) (small : len.toNat ≤ 240)
    (wrong : [x, y] ≠ checkBytes (frameCheck (len :: kind :: payload)))
    (behind : Receiver.Searched p ⟨len :: kind :: (payload ++ [x, y]),
      (len :: kind :: (payload ++ [x, y])).length⟩ ⟨[], 0⟩ found) :
    Receiver.Searched p ⟨0xC3 :: len :: kind :: (payload ++ [x, y]), 0⟩ ⟨[], 0⟩ (.badCheckFrame p :: found) := by
  have discarded : max 0 (payload.length + 5) - 1 = (len :: kind :: (payload ++ [x, y])).length := by
    simp only [List.length_cons, List.length_append, List.length_nil]
    omega
  exact .wrongCheck length small wrong (discarded ▸ behind)

theorem Frame.bytes_length (f : Frame) : f.bytes.length = f.payload.length + 5 := by
  simp [Frame.bytes, Frame.body, checkBytes]

/-- A whole frame among discarded bytes is found where no other SYNC stands before or behind it. -/
theorem Receiver.Searched.frame_among {before after : List Byte} {f : Frame} (small : f.payload.length ≤ 240)
    (first : 0xC3 ∉ before) (last : 0xC3 ∉ after) :
    Receiver.Searched p ⟨before ++ f.bytes ++ after, (before ++ f.bytes ++ after).length⟩ ⟨[], 0⟩
      [.validFrame p f.kind f.payload] := by
  rw [List.append_assoc]
  refine .pass before first (.frame small (.pass_all last ?_))
  simp only [List.length_append, Frame.bytes_length]
  omega

end

/-! ### The bytes of a candidate (R172) -/

/-- A hunting receiver that takes a whole candidate, and finds itself hunting again, has queued what it found. -/
theorem State.receiveBytes_judged {s : State} {p : Port} {len kind x y : Byte} {payload : List Byte}
    {found : List Instr} (hunting : (s.port p).receiver = ⟨[], 0⟩) (length : payload.length = len.toNat)
    (small : len.toNat ≤ 240)
    (searched : Receiver.Searched p ⟨0xC3 :: len :: kind :: (payload ++ [x, y]), 0⟩ ⟨[], 0⟩ found) :
    s.receiveBytes p (0xC3 :: len :: kind :: (payload ++ [x, y])) = { s with pending := s.pending ++ found } := by
  rw [State.receiveBytes_candidate hunting length small searched, s.modifyPort_id p _ (by rw [← hunting])]

/-- The bytes of a frame are one VALID_FRAME, and the receiver hunts again. -/
theorem State.receiveBytes_frame {s : State} {p : Port} (kind : Byte) {payload : List Byte}
    (hunting : (s.port p).receiver = ⟨[], 0⟩) (small : payload.length ≤ 240) :
    s.receiveBytes p (Frame.bytes ⟨kind, payload⟩) =
      { s with pending := s.pending ++ [.validFrame p kind payload] } := by
  have length : payload.length = (BitVec.ofNat 8 payload.length).toNat := by
    rw [BitVec.toNat_ofNat]
    omega
  have searched : Receiver.Searched p ⟨Frame.bytes ⟨kind, payload⟩ ++ [], 0⟩ ⟨[], 0⟩ [.validFrame p kind payload] :=
    .frame small (by rw [Nat.zero_sub]; exact .hunts 0)
  rw [List.append_nil] at searched
  exact State.receiveBytes_judged hunting length (length ▸ small) searched

/-- A LEN above 240 is one BAD_LENGTH_FRAME as it arrives, and the receiver hunts again. -/
theorem State.receiveBytes_long {s : State} {p : Port} {len : Byte} (hunting : (s.port p).receiver = ⟨[], 0⟩)
    (long : 240 < len.toNat) :
    s.receiveBytes p [0xC3, len] = { s with pending := s.pending ++ [.badLengthFrame p] } := by
  have first := State.receiveByte_held (b := 0xC3) hunting (.awaitsLength 0)
  show (s.receiveByte p 0xC3).receiveByte p len = _
  rw [first, State.receiveByte_eq (by rw [State.modifyPort_port_self]; exact .long_alone long),
    State.modifyPort_modifyPort, s.modifyPort_id p _ (by rw [← hunting])]
  rfl

/-- Settles O43: the search of the rules has exactly the outcome that the receiver queues, and each of the four kinds
of candidate is such a search. -/
theorem frameBytesBecomeOneValidFrame : Obligations.FrameBytesBecomeOneValidFrame := by
  refine ⟨fun s p b => ⟨⟨_, _, search_searched p _ _ le_rfl⟩, fun r found => State.receiveByte_eq⟩,
    fun s p kind payload => State.receiveBytes_frame kind, fun s p len => State.receiveBytes_long,
    fun s p len kind x y payload hunting length small wrong => ⟨fun none => ?_,
      fun before after f fits first last inner => ?_⟩⟩
  · exact State.receiveBytes_judged hunting length small (.wrong_alone length small wrong (.pass_all none le_rfl))
  · refine State.receiveBytes_judged hunting length small (.wrong_alone length small wrong ?_)
    rw [inner]
    exact .frame_among fits first last

end Sys2Proof.Machine
end

section
/-! PROOF. A frame of a wrong length and a frame of an unknown kind (R174 to R176, R184, R140 to R143; log 16): the
frame acts on the link and the presence, is discarded or accepted, and is then a major error. -/
namespace Sys2Proof.Machine

/-! ### What a major error leaves of its port -/

section
variable (s : State) (p : Port) (kind : ErrorKind) (requestKind : Option Byte)

theorem State.majorError_requestQueue :
    ((s.majorError p kind requestKind).port p).requestQueue = (s.port p).requestQueue := by
  rw [State.majorError_own]

theorem State.majorError_responseQueue :
    ((s.majorError p kind requestKind).port p).responseQueue = (s.port p).responseQueue := by
  rw [State.majorError_own]

/-- The first major error fills the record (R140, R141). -/
theorem State.majorError_errorRecord (first : (s.port p).errorRecord = none) :
    ((s.majorError p kind requestKind).port p).errorRecord = some ⟨kind, requestKind, s.raceClock, false⟩ := by
  rw [State.majorError_first kind requestKind first, State.modifyPort_port_self, PortState.offer_errorRecord]

end

/-! ### What stands at the head of a queue (R176) -/

/-- With no request waiting nothing is answered. -/
theorem State.answerHead_empty {s : State} {p : Port} (empty : (s.port p).requestQueue = []) :
    s.answerHead p = s := by
  have head : (s.port p).head = none := by
    unfold PortState.head
    rw [empty]
    split <;> rfl
  unfold State.answerHead
  rw [head]

/-- An unknown frame at the head is answered UNKNOWN_KIND. -/
theorem State.answerUnknown_head {s : State} {p : Port} {kind : Byte} {arrival : Nat}
    (head : (s.port p).head = some (.unknown kind arrival)) :
    s.answerUnknown p = s.answeredLocally p (.unknownFrame kind .unknownKind) := by
  unfold State.answerUnknown
  rw [head]
  rfl

theorem State.answerHead_unknown {s : State} {p : Port} {kind : Byte} {arrival : Nat}
    (head : (s.port p).head = some (.unknown kind arrival)) :
    s.answerHead p = s.answeredLocally p (.unknownFrame kind .unknownKind) := by
  refine Eq.trans ?_ (State.answerUnknown_head head)
  unfold State.answerHead
  rw [head]

/-! ### A frame as it is sorted (R174) -/

/-- A frame acts on the link and the presence and is sorted, and then what stands at the head of a queue that was
empty is answered (R174, R176). -/
theorem exec_validFrame_sorted (s : State) (p : Port) (kind : Byte) {payload : List Byte}
    (small : payload.length ≤ 240) : exec (.validFrame p kind payload) s = .next (
      if (s.port p).requestQueue = [] then ((s.frameArrives p).sortFrame p kind payload).answerHead p
      else (s.frameArrives p).sortFrame p kind payload) := by
  obtain ⟨-, _, _, own⟩ := State.frameArrives_own p s
  have queue : ((s.frameArrives p).port p).requestQueue = (s.port p).requestQueue := by rw [own]
  rw [← queue]
  exact congrArg Host.Outcome.next (if_pos small)

/-- A request of a wrong length is a major error and nothing else (R184). -/
theorem State.sortFrame_wrongLength (s : State) (p : Port) {kind : Byte} {k : RequestKind} {payload : List Byte}
    (known : RequestKind.ofCode kind = some k) (wrong : k.lengthAllowed payload = false) :
    s.sortFrame p kind payload = s.majorError p .badLength (some kind) := by
  unfold State.sortFrame
  rw [known]
  exact if_neg (ne_true_of_eq_false wrong)

/-- The state once a frame of an unknown kind has been queued, answered BUSY or discarded (R175). -/
def State.unknownAccepted (p : Port) (kind : Byte) (payload : List Byte) (s : State) : State :=
  s.modifyPort p (PortState.accept kind payload s.tickCount)

/-- A frame of an unknown kind is accepted and is then a major error (R174, R176). -/
theorem State.sortFrame_unknown (s : State) (p : Port) {kind : Byte} (payload : List Byte)
    (unknown : RequestKind.ofCode kind = none) :
    s.sortFrame p kind payload =
      (s.unknownAccepted p kind payload).majorError p .unknownKind (some kind) := by
  unfold State.sortFrame
  rw [unknown]
  rfl

theorem queuedFrame_unknown {kind : Byte} (unknown : RequestKind.ofCode kind = none) (payload : List Byte)
    (arrival : Nat) : queuedFrame kind payload arrival = .unknown kind arrival := by
  unfold queuedFrame
  rw [unknown]

theorem busyAnswer_unknown {kind : Byte} (unknown : RequestKind.ofCode kind = none) :
    busyAnswer kind = .unknownFrame kind .busy := by
  unfold busyAnswer
  rw [unknown]

section
variable {s : State} {p : Port} {kind : Byte}

/-- An unknown frame that finds room is queued (R175). -/
theorem State.unknownAccepted_room (payload : List Byte) (unknown : RequestKind.ofCode kind = none)
    (room : (s.port p).requestQueue.length < 4) :
    s.unknownAccepted p kind payload = s.modifyPort p fun c =>
      { c with requestQueue := (s.port p).requestQueue ++ [.unknown kind s.tickCount] } :=
  State.modifyPort_congr (by rw [PortState.accept_room _ _ _ room, queuedFrame_unknown unknown])

/-- An unknown frame that finds four entries waiting is answered BUSY (R175). -/
theorem State.unknownAccepted_busy (payload : List Byte) (unknown : RequestKind.ofCode kind = none)
    (full : 4 ≤ (s.port p).requestQueue.length) (fits : (s.port p).responseQueue.length < 6) :
    s.unknownAccepted p kind payload = s.modifyPort p fun c =>
      { c with responseQueue := (s.port p).responseQueue ++ [.unknownFrame kind .busy] } :=
  State.modifyPort_congr (by rw [PortState.accept_full _ _ _ full, if_pos fits, busyAnswer_unknown unknown])

/-- An unknown frame that finds no room for its BUSY answer is discarded (R175). -/
theorem State.unknownAccepted_discarded (payload : List Byte) (full : 4 ≤ (s.port p).requestQueue.length)
    (stuck : 6 ≤ (s.port p).responseQueue.length) : s.unknownAccepted p kind payload = s :=
  State.modifyPort_id s p _ (by rw [PortState.accept_full _ _ _ full, if_neg (Nat.not_lt.mpr stuck)])

theorem State.unknownAccepted_errorRecord (payload : List Byte) :
    ((s.unknownAccepted p kind payload).port p).errorRecord = (s.port p).errorRecord := by
  unfold State.unknownAccepted
  rw [State.modifyPort_port_self, PortState.accept_same]

end

/-! ### The two errors -/

/-- A request of a wrong length is discarded unanswered, and is a major error BAD_LENGTH (R174, R184). -/
theorem exec_validFrame_wrongLength (s : State) (p : Port) {kind : Byte} {k : RequestKind} {payload : List Byte}
    (small : payload.length ≤ 240) (known : RequestKind.ofCode kind = some k)
    (wrong : k.lengthAllowed payload = false) : exec (.validFrame p kind payload) s =
      .next ((s.frameArrives p).majorError p .badLength (some kind)) := by
  obtain ⟨-, _, _, own⟩ := State.frameArrives_own p s
  rw [exec_validFrame_sorted s p kind small, State.sortFrame_wrongLength _ p known wrong]
  split
  · next empty =>
    exact congrArg _ (State.answerHead_empty (by rw [State.majorError_requestQueue, own]; exact empty))
  · rfl

/-- Settles O45: a frame of a wrong length is an error alone; an unknown one is accepted, is an error, and is answered
where it stands alone and its answer fits, or by its own command. -/
theorem wrongLengthAndUnknownFrames : Obligations.WrongLengthAndUnknownFrames := by
  refine ⟨fun s p kind k payload small known wrong => ?_, fun s p kind payload small unknown => ?_,
    fun s p kind arrival head => congrArg _ (State.answerUnknown_head head)⟩
  all_goals
    let u := s.frameArrives p
    obtain ⟨⟨ticks, clock⟩, _, _, own⟩ := State.frameArrives_own p s
    have requests : (u.port p).requestQueue = (s.port p).requestQueue := by rw [own]
    have responses : (u.port p).responseQueue = (s.port p).responseQueue := by rw [own]
    have record : (u.port p).errorRecord = (s.port p).errorRecord := by rw [own]
  · refine ⟨u, u.majorError p .badLength (some kind), s.frameArrives_spec p, u.majorError_spec p _ _,
      exec_validFrame_wrongLength s p small known wrong, ?_, ?_, fun first => ?_⟩
    · rw [State.majorError_requestQueue, requests]
    · rw [State.majorError_responseQueue, responses]
    · rw [State.majorError_errorRecord u p _ _ (record.trans first), clock]
  · let v := u.unknownAccepted p kind payload
    let t := v.majorError p .unknownKind (some kind)
    have runs := exec_validFrame_sorted s p kind small
    rw [State.sortFrame_unknown u p payload unknown] at runs
    have queue : (t.port p).requestQueue = (v.port p).requestQueue := State.majorError_requestQueue v p _ _
    have answers : (t.port p).responseQueue = (v.port p).responseQueue := State.majorError_responseQueue v p _ _
    have queued (room : (s.port p).requestQueue.length < 4) : v = u.modifyPort p fun c =>
        { c with requestQueue := (s.port p).requestQueue ++ [.unknown kind s.tickCount] } := by
      rw [← requests, ← ticks]
      exact State.unknownAccepted_room payload unknown (by rw [requests]; exact room)
    have alone (empty : (s.port p).requestQueue = []) : (t.port p).requestQueue = [.unknown kind s.tickCount] ∧
        (t.port p).responseQueue = (s.port p).responseQueue := by
      rw [queue, answers, queued (by rw [empty]; decide), State.modifyPort_port_self, empty]
      exact ⟨rfl, responses⟩
    refine ⟨u, v, t, s.frameArrives_spec p, queued, fun full fits => ?_, fun full stuck => ?_,
      v.majorError_spec p _ _, fun waits => ⟨runs.trans (congrArg _ ?_), queue, answers⟩, fun empty fits => ?_,
      fun first => ?_⟩
    · rw [← responses]
      exact State.unknownAccepted_busy payload unknown (by rw [requests]; exact full) (by rw [responses]; exact fits)
    · exact State.unknownAccepted_discarded payload (by rw [requests]; exact full) (by rw [responses]; exact stuck)
    · by_cases empty : (s.port p).requestQueue = []
      · obtain ⟨-, kept⟩ := alone empty
        rw [if_pos empty]
        exact State.answerHead_full (by rw [kept]; exact waits.resolve_left (not_not_intro empty))
      · exact if_neg empty
    · obtain ⟨stands, kept⟩ := alone empty
      have head : (t.port p).head = some (.unknown kind s.tickCount) := by
        unfold PortState.head
        rw [kept, stands]
        exact if_pos fits
      refine ⟨runs.trans (congrArg _ ?_), stands, kept⟩
      rw [if_pos empty]
      exact State.answerHead_unknown head
    · have none : (v.port p).errorRecord = none :=
        (State.unknownAccepted_errorRecord payload).trans (record.trans first)
      rw [← clock]
      exact State.majorError_errorRecord v p _ _ none

end Sys2Proof.Machine
end

section
/-! PROOF. The loss of a link (R171, R179, R133, R137): the port is flushed and, where it was PRESENT, goes LATE with
the effects of silence, of which no notice reaches the port itself. -/
namespace Sys2Proof.Machine

/-! ### Ports whose link is DOWN (R162) -/

section
variable {s : State} {q : Port}

/-- A port whose link is DOWN takes no notice. -/
theorem State.notify_port_down (sel : Port → Bool) (n : Notice) (down : (s.port q).link = .down) :
    (s.notify sel n).port q = s.port q := by
  rw [State.notify_port, PortState.offer_down n down, ite_self]

theorem State.holdTest_port_down (down : (s.port q).link = .down) : s.holdTest.port q = s.port q := by
  unfold State.holdTest
  split
  · split
    · exact State.notify_port_down (s := s.modifyRace _) _ _ down
    · exact State.notify_port_down (s := s.modifyRace _) _ _ down
    · rfl
    · rfl
  · rfl

/-- The effects of a port going LATE leave a port whose link is DOWN as it is. -/
theorem State.lateEffects_port_down (p : Port) (reason : Reason) (down : (s.port q).link = .down) :
    (s.lateEffects p reason).port q = s.port q := by
  unfold State.lateEffects
  split_ifs
  · exact State.notify_port_down (s := s.modifyCar p _) _ _ down
  · rfl
  · exact State.holdTest_port_down down
  · rfl

end

/-! ### The loss of a link -/

theorem State.lateEffects_raaPointer (s : State) (p : Port) (reason : Reason) :
    (s.lateEffects p reason).raaPointer = s.raaPointer := by
  unfold State.lateEffects
  split_ifs
  · rfl
  · rfl
  · obtain ⟨_, _, only⟩ := s.holdTest_only
    rw [only.rest]
    rfl
  · rfl

section
variable (s : State) (p : Port)

theorem State.linkDown_raaPointer : (s.linkDown p).raaPointer = s.raaPointer := by
  unfold State.linkDown
  dsimp only
  split
  · exact State.lateEffects_raaPointer _ p _
  · rfl

/-- The loss of a link offers the other ports notices alone. -/
theorem State.linkDown_others {q : Port} (other : q ≠ p) :
    (s.port q).SameButNotices ((s.linkDown p).port q) := by
  have same : (s.modifyPort p PortState.dropLink).port q = s.port q := s.modifyPort_port_ne _ other
  unfold State.linkDown
  dsimp only
  split
  · have told := State.lateEffects_ports ((s.modifyPort p PortState.dropLink).modifyPort p fun c =>
      { c with presence := .late, silence := .second secondStageLength }) p q .silent
    rw [State.modifyPort_port_ne _ _ other, same] at told
    exact told
  · rw [same]
    exact .refl _

/-- The port of the lost link is flushed, and a PRESENT one is LATE with the second stage at 2,750 ms. -/
theorem State.linkDown_port : (s.linkDown p).port p =
    if (s.port p).presence = .present then
      { (s.port p).flushed with presence := .late, silence := .second 2750 }
    else (s.port p).flushed := by
  let late := (s.modifyPort p PortState.dropLink).modifyPort p fun c =>
    { c with presence := .late, silence := .second secondStageLength }
  have own : late.port p = { (s.port p).flushed with presence := .late, silence := .second 2750 } := by
    rw [State.modifyPort_port_self, State.modifyPort_port_self]
    rfl
  unfold State.linkDown
  dsimp only
  split
  · exact (State.lateEffects_port_down p .silent (by rw [own]; rfl)).trans own
  · exact State.modifyPort_port_self _ p _

end

/-- On an UP link a loss of signal is the loss of the link; on a DOWN link the candidate alone is lost (R171, R173). -/
theorem State.lossOfSignal_up {s : State} {p : Port} (up : (s.port p).link = .up) :
    s.lossOfSignal p = s.linkDown p := by
  unfold State.lossOfSignal
  rw [up]

theorem State.lossOfSignal_down {s : State} {p : Port} (down : (s.port p).link = .down) :
    s.lossOfSignal p = s.modifyPort p fun c => { c with receiver := ⟨[], 0⟩ } := by
  unfold State.lossOfSignal
  rw [down]

/-- Settles O48: the candidate alone is lost on a DOWN link, and an UP link is lost as R179 and R133 have it. -/
theorem lossOfSignalFlushesThePort : Obligations.LossOfSignalFlushesThePort := by
  intro s p
  refine ⟨s.lossOfSignal p, rfl, ?_⟩
  cases link : (s.port p).link with
  | down =>
    rw [State.lossOfSignal_down link]
    refine ⟨by rw [State.modifyPort_port_self], fun _ => rfl, nofun, rfl, fun q other => ?_⟩
    rw [State.modifyPort_port_ne _ _ other]
    exact .refl _
  | up =>
    have own := s.linkDown_port p
    rw [State.lossOfSignal_up link]
    have lost := s.linkDown_spec p
    have frame : (s.linkDown p).raaPointer = s.raaPointer ∧
        ∀ q : Port, q ≠ p → (s.port q).SameButNotices ((s.linkDown p).port q) :=
      ⟨s.linkDown_raaPointer p, fun q => s.linkDown_others p⟩
    by_cases present : (s.port p).presence = .present
    · rw [if_pos present] at own
      rw [own]
      exact ⟨rfl, nofun, fun _ => ⟨lost, rfl, rfl, rfl, rfl, rfl, rfl, rfl, rfl, rfl, rfl, rfl, rfl,
        fun _ => ⟨rfl, rfl⟩, fun away => absurd present away⟩, frame⟩
    · rw [if_neg present] at own
      rw [own]
      exact ⟨rfl, nofun, fun _ => ⟨lost, rfl, rfl, rfl, rfl, rfl, rfl, rfl, rfl, rfl, rfl, rfl, rfl,
        fun home => absurd home present, fun _ => ⟨rfl, rfl⟩⟩, frame⟩

end Sys2Proof.Machine
end

section
/-! PROOF. The transmitter at a frame boundary (R178, R163): a response, else a notice, else the push slot. -/
namespace Sys2Proof.Machine

section
variable {c : PortState}

theorem PortState.transmitTake_down (down : c.link = .down) : c.transmitTake = c := by
  unfold PortState.transmitTake
  rw [down]

theorem PortState.transmitTake_response {r : Response} {rest : List Response} (up : c.link = .up)
    (responses : c.responseQueue = r :: rest) :
    c.transmitTake = { c with responseQueue := rest, sending := some r.frame } := by
  unfold PortState.transmitTake
  rw [up, responses]

/-- The overflow condition becomes an OVERFLOW notice in the freed entry (R163). -/
theorem PortState.takeNotice_eq (c : PortState) (rest : List Notice) : c.takeNotice rest = { c with
    noticeQueue := if c.overflow then rest ++ [.overflow] else rest
    overflow := false } := by
  unfold PortState.takeNotice
  split
  · rfl
  · next clear => rw [Bool.eq_false_of_not_eq_true clear]

theorem PortState.transmitTake_notice {n : Notice} {rest : List Notice} (up : c.link = .up)
    (responses : c.responseQueue = []) (notices : c.noticeQueue = n :: rest) :
    c.transmitTake = { c with
      noticeQueue := if c.overflow then rest ++ [.overflow] else rest
      overflow := false, sending := some n.frame } := by
  refine Eq.trans ?_ (congrArg (fun d : PortState => { d with sending := some n.frame }) (c.takeNotice_eq rest))
  unfold PortState.transmitTake
  rw [up, responses, notices]

theorem PortState.transmitTake_push {x : Snapshot} (up : c.link = .up) (responses : c.responseQueue = [])
    (notices : c.noticeQueue = []) (slot : c.pushSlot = some x) :
    c.transmitTake = { c with pushSlot := none, sending := some ⟨0x60, x.bytes⟩ } := by
  unfold PortState.transmitTake
  rw [up, responses, notices, slot]
  rfl

end

/-- Settles O49: a DOWN link takes nothing, and an UP link takes by the precedence of R178. -/
theorem transmitPrecedence : Obligations.TransmitPrecedence := by
  intro s p
  refine ⟨fun down => congrArg _ (s.modifyPort_id p _ (PortState.transmitTake_down down)), fun up =>
    ⟨fun r rest responses => ?_, fun n rest responses notices => ?_, fun x responses notices slot => ?_⟩⟩
  · exact congrArg _ (State.modifyPort_congr (PortState.transmitTake_response up responses))
  · exact congrArg _ (State.modifyPort_congr (PortState.transmitTake_notice up responses notices))
  · exact congrArg _ (State.modifyPort_congr (PortState.transmitTake_push up responses notices slot))

end Sys2Proof.Machine
end

section
/-! PROOF. IDENTIFY and NOP (R181): what they answer, with nothing else changed. -/
namespace Sys2Proof.Machine

/-- IDENTIFY tells how things stand, except on a fenced port. -/
theorem performIdentify_eq (p : Port) (r : Request) (s : State) : performIdentify p r s =
    (s, if (s.port p).fenced then .bare .identify .fenced
      else .identify p s.race.number s.race.phase (s.carState p) (s.port p).presence
        (s.port p).errorRecord.isSome) := by
  unfold performIdentify
  split <;> rfl

theorem performNop_eq (p : Port) (r : Request) (s : State) :
    performNop p r s = (s, .bare .nop (if (s.port p).fenced then .fenced else .ok)) := by
  unfold performNop
  split <;> rfl

/-- Settles O39: neither request reads its own queue, so taking it off the queue leaves its answer as it was. -/
theorem identifyAndNopChangeNothing : Obligations.IdentifyAndNopChangeNothing := by
  refine fun s p r => ⟨fun asked => congrArg _ (State.answer_answered asked ?_),
    fun asked => congrArg _ (State.answer_answered asked ?_), fun _ _ _ _ _ => rfl⟩
  · rw [performIdentify_eq, State.modifyPort_port_self]
    rfl
  · rw [performNop_eq, State.modifyPort_port_self]
    rfl

end Sys2Proof.Machine
end

section
/-! PROOF. A reserved byte that is not zero (R185): the handling of a request does not read it, so the request and
the one with its reserved bytes zero have one effect and one response, and BAD_FIELD is taken after them. -/
namespace Sys2Proof.Machine

/-! ### A payload with one byte replaced -/

section
variable (payload : List Byte) (b : Byte) {offset i : Nat}

theorem getD_set_other (other : i ≠ offset) : (payload.set i b).getD offset 0 = payload.getD offset 0 := by
  rw [List.getD_eq_getElem?_getD, List.getElem?_set_ne other, ← List.getD_eq_getElem?_getD]

theorem byteAt_set_other (other : i ≠ offset) : byteAt (payload.set i b) offset = byteAt payload offset :=
  congrArg BitVec.toNat (getD_set_other payload b other)

theorem halfAt_set_other (low : i ≠ offset) (high : i ≠ offset + 1) :
    halfAt (payload.set i b) offset = halfAt payload offset := by
  unfold halfAt
  rw [byteAt_set_other payload b low, byteAt_set_other payload b high]

/-- A byte that is set to zero reads as zero, and so does one beyond the payload. -/
theorem byteAt_set_zero (i : Nat) : byteAt (payload.set i 0) i = 0 := by
  unfold byteAt
  rw [List.getD_eq_getElem?_getD, List.getElem?_set_self']
  cases payload[i]? <;> rfl

end

/-! ### What CAR_SETUP and SET_PUSH read of their payloads (R48, R155) -/

section
variable (payload : List Byte) (b : Byte)

theorem setupMask_set_reserved : setupMask (payload.set 5 b) = setupMask payload :=
  byteAt_set_other payload b (by decide)

theorem setupClass_set_reserved : setupClass (payload.set 5 b) = setupClass payload :=
  byteAt_set_other payload b (by decide)

theorem setupTag_set_reserved : setupTag (payload.set 5 b) = setupTag payload := by
  unfold setupTag
  rw [getD_set_other payload b (by decide), getD_set_other payload b (by decide),
    getD_set_other payload b (by decide)]

theorem setupRate_set_reserved : setupRate (payload.set 5 b) = setupRate payload :=
  halfAt_set_other payload b (by decide) (by decide)

theorem setupInRange_set_reserved : setupInRange (payload.set 5 b) = setupInRange payload := by
  unfold setupInRange
  rw [setupMask_set_reserved, setupClass_set_reserved, setupTag_set_reserved, setupRate_set_reserved]

theorem setupMaskEmpty_set_reserved : setupMaskEmpty (payload.set 5 b) = setupMaskEmpty payload := by
  unfold setupMaskEmpty
  rw [setupMask_set_reserved]

theorem Car.setup_set_reserved : Car.setup (payload.set 5 b) = Car.setup payload := by
  funext c
  unfold Car.setup
  rw [setupMask_set_reserved, setupClass_set_reserved, setupTag_set_reserved, setupRate_set_reserved]

theorem pushIntervalOf_set_reserved (b' : Byte) :
    pushIntervalOf ((payload.set 2 b).set 3 b') = pushIntervalOf payload :=
  (halfAt_set_other _ b' (by decide) (by decide)).trans (halfAt_set_other payload b (by decide) (by decide))

end

theorem performCarSetup_set_reserved (p : Port) (r : Request) (b : Byte) (s : State) :
    performCarSetup p { r with payload := r.payload.set 5 b } s = performCarSetup p r s := by
  unfold performCarSetup
  dsimp only
  rw [setupInRange_set_reserved, setupMaskEmpty_set_reserved, Car.setup_set_reserved]

theorem performSetPush_set_reserved (p : Port) (r : Request) (b b' : Byte) (s : State) :
    performSetPush p { r with payload := (r.payload.set 2 b).set 3 b' } s = performSetPush p r s := by
  unfold performSetPush
  dsimp only
  rw [pushIntervalOf_set_reserved]

theorem carSetup_reservedNonzero_zeroed (payload : List Byte) :
    RequestKind.carSetup.reservedNonzero (payload.set 5 0) = false :=
  decide_eq_false (not_not.mpr (byteAt_set_zero payload 5))

theorem setPush_reservedNonzero_zeroed (payload : List Byte) :
    RequestKind.setPush.reservedNonzero ((payload.set 2 0).set 3 0) = false := by
  have low : byteAt ((payload.set 2 0).set 3 0) 2 = 0 :=
    (byteAt_set_other _ 0 (by decide)).trans (byteAt_set_zero payload 2)
  exact decide_eq_false (not_or.mpr ⟨not_not.mpr low, not_not.mpr (byteAt_set_zero _ 3)⟩)

/-! ### Another request of the same kind at the head (R61, R176) -/

section
variable {s : State} {p : Port} {k : RequestKind} {r x : Request}

/-- Only the head differs, and it leaves the queue. -/
theorem State.withHead_requestTaken (s : State) (p : Port) (x : Request) :
    (s.withHead p x).requestTaken p = s.requestTaken p :=
  State.modifyPort_modifyPort s p _ _

theorem State.withHead_head (room : (s.port p).responseQueue.length < responseCapacity) :
    ((s.withHead p x).port p).head = some (.request x) := by
  unfold State.withHead
  rw [State.modifyPort_port_self]
  exact if_pos room

theorem State.withHead_raceRequest (room : (s.port p).responseQueue.length < responseCapacity)
    (race : x.kind.portLocal = false) : ((s.withHead p x).port p).raceRequest = some x := by
  unfold PortState.raceRequest
  rw [State.withHead_head room]
  exact if_neg (by simp [race])

/-- The arbiter looks at which ports have a race request waiting, not at what the requests hold. -/
theorem State.arbiterChoice_congr {t : State} (pointer : t.raaPointer = s.raaPointer)
    (waits : ∀ q : Port, (t.port q).raceRequest.isSome = (s.port q).raceRequest.isSome) :
    t.arbiterChoice = s.arbiterChoice := by
  unfold State.arbiterChoice
  rw [pointer, funext waits]

theorem State.raceRequest_of_granted (granted : s.granted p k = some r) :
    (s.port p).raceRequest.isSome = true := by
  obtain ⟨-, -, chosen, -, -⟩ := State.granted_spec granted
  exact List.find?_some (p := fun q => (s.port q).raceRequest.isSome) chosen

theorem State.withHead_granted (granted : s.granted p k = some r) (kind : x.kind = k) :
    (s.withHead p x).granted p k = some x := by
  obtain ⟨-, race, chosen, -, room⟩ := State.granted_spec granted
  have own : ((s.withHead p x).port p).raceRequest = some x := State.withHead_raceRequest room (kind ▸ race)
  have choice : (s.withHead p x).arbiterChoice = s.arbiterChoice := by
    refine State.arbiterChoice_congr rfl fun q => ?_
    by_cases same : q = p
    · rw [same, own, State.raceRequest_of_granted granted]
      rfl
    · rw [State.withHead, State.modifyPort_port_ne _ _ same]
  unfold State.granted
  rw [choice, if_pos chosen, own]
  exact if_pos kind

theorem State.withHead_localRequest (asked : s.localRequest p k = some r) (kind : x.kind = k) :
    (s.withHead p x).localRequest p k = some x := by
  obtain ⟨-, -, room⟩ := State.localRequest_spec asked
  unfold State.localRequest
  rw [State.withHead_head room]
  exact if_pos kind

/-- A grant of another request that is performed alike is the same grant. -/
theorem State.withHead_grant {perform : Request → State → State × Response} (granted : s.granted p k = some r)
    (kind : x.kind = k) (alike : perform x (s.requestTaken p) = perform r (s.requestTaken p)) :
    (s.withHead p x).grant p k perform = s.grant p k perform := by
  have done : perform x ((s.withHead p x).requestTaken p) = perform r (s.requestTaken p) := by
    rw [State.withHead_requestTaken, alike]
  exact (State.grant_ends (State.withHead_granted granted kind) done).trans (State.grant_ends granted rfl).symm

/-- An answer to another request that is performed alike is the same answer. -/
theorem State.withHead_answer {perform : Request → State → State × Response}
    (asked : s.localRequest p k = some r) (kind : x.kind = k)
    (alike : perform x (s.requestTaken p) = perform r (s.requestTaken p)) :
    (s.withHead p x).answer p k perform = s.answer p k perform := by
  have done : perform x ((s.withHead p x).requestTaken p) = perform r (s.requestTaken p) := by
    rw [State.withHead_requestTaken, alike]
  unfold State.requestTaken at done
  rw [State.answer_some (State.withHead_localRequest asked kind), State.answer_some asked, done]

/-! ### The report after the response (R185) -/

/-- A reserved byte that is not zero is a BAD_FIELD with the kind of its request. -/
theorem State.reportReserved_spec (s : State) (p : Port) (nonzero : r.kind.reservedNonzero r.payload = true) :
    s.TookMajorError p .badField (some r.kind.code) (s.reportReserved p r) := by
  unfold State.reportReserved
  rw [if_pos nonzero]
  exact State.majorError_spec p .badField (some r.kind.code) s

theorem exec_carSetup_granted (granted : s.granted p .carSetup = some r) :
    exec (.carSetup p) s = .next ((s.grant p .carSetup (performCarSetup p)).reportReserved p r) := by
  show Host.Outcome.next _ = _
  rw [granted]

theorem exec_setPush_asked (asked : s.localRequest p .setPush = some r) :
    exec (.setPush p) s = .next ((s.answer p .setPush (performSetPush p)).reportReserved p r) := by
  show Host.Outcome.next (s.answerSetPush p) = _
  unfold State.answerSetPush
  rw [asked]

/-- With a request at the head that is performed alike and has its reserved byte zero, CAR_SETUP is the grant of
the request it stands for. -/
theorem exec_carSetup_withHead (granted : s.granted p .carSetup = some r) (kind : x.kind = .carSetup)
    (clean : RequestKind.carSetup.reservedNonzero x.payload = false)
    (alike : performCarSetup p x (s.requestTaken p) = performCarSetup p r (s.requestTaken p)) :
    exec (.carSetup p) (s.withHead p x) = .next (s.grant p .carSetup (performCarSetup p)) := by
  rw [exec_carSetup_granted (State.withHead_granted granted kind), State.reportReserved_zero (kind ▸ clean),
    State.withHead_grant granted kind alike]

/-- With a request at the head that is performed alike and has its reserved bytes zero, SET_PUSH is the answer to
the request it stands for. -/
theorem exec_setPush_withHead (asked : s.localRequest p .setPush = some r) (kind : x.kind = .setPush)
    (clean : RequestKind.setPush.reservedNonzero x.payload = false)
    (alike : performSetPush p x (s.requestTaken p) = performSetPush p r (s.requestTaken p)) :
    exec (.setPush p) (s.withHead p x) = .next (s.answer p .setPush (performSetPush p)) := by
  rw [exec_setPush_plain (State.withHead_localRequest asked kind) clean, State.withHead_answer asked kind alike]

end

/-- Settles O42: the request with its reserved bytes zero is the grant or the answer alone, and the request itself
is that followed by its report. -/
theorem reservedBytesAreReported : Obligations.ReservedBytesAreReported := by
  refine fun s p r => ⟨fun granted nonzero => ?_, fun asked nonzero => ?_⟩
  · obtain ⟨kind, -⟩ := State.granted_spec granted
    refine ⟨_, _, exec_carSetup_withHead granted kind (carSetup_reservedNonzero_zeroed r.payload)
      (performCarSetup_set_reserved p r 0 _), ?_, exec_carSetup_granted granted⟩
    have report := (s.grant p .carSetup (performCarSetup p)).reportReserved_spec (r := r) p
    rw [kind] at report
    exact report (decide_eq_true nonzero)
  · obtain ⟨kind, -⟩ := State.localRequest_spec asked
    refine ⟨_, _, exec_setPush_withHead asked kind (setPush_reservedNonzero_zeroed r.payload)
      (performSetPush_set_reserved p r 0 0 _), ?_, exec_setPush_asked asked⟩
    have report := (s.answer p .setPush (performSetPush p)).reportReserved_spec (r := r) p
    rw [kind] at report
    exact report (decide_eq_true nonzero)

end Sys2Proof.Machine
end
